-- ==== Sys2Proof/Word.lean ====
section
/-! DEFINITION. The machine's widths: bytes, 16-bit words, register indices (spec/00_scope.md R7, R9, R11). -/

namespace Sys2Proof

/-- An 8-bit unsigned value: a general register, a timer, a memory byte (R7, R20). -/
abbrev Byte := BitVec 8

/-- A 16-bit unsigned value: an instruction word, `pc`, `I`, a return address (R7). -/
abbrev Word := BitVec 16

/-- A 12-bit address field `nnn` (R71). -/
abbrev Addr12 := BitVec 12

/-- A register index, the field `x` or `y`: every 4-bit value names a register (R74). -/
abbrev RegIdx := BitVec 4

/-- The index of `VF`, register 15 (R21). -/
abbrev VF : RegIdx := 15#4

end Sys2Proof
end

