-- ==== Sys2Proof/Syntax.lean ====
section
/-! DEFINITION. The 37 instructions of spec/30_encoding.md R81, one constructor a row of spec/opcode_table.json. -/

namespace Sys2Proof

/-- An instruction with its operand fields (R71). `shrReg` and `shlReg` keep the field `y`, which their rows ignore
(R82), so that a word and its instruction determine each other; `jpOff` keeps the register field `x` that the table
lists beside `nnn` (R75), and WellFormed says that it is the top nibble of `nnn` (log entry 23). -/
inductive Instr where
  /-- `00E0` CLS (R202). -/
  | cls
  /-- `00EE` RET (R102). -/
  | ret
  /-- `00FE` LOW (R203). -/
  | low
  /-- `00FF` HIGH (R204). -/
  | high
  /-- `1nnn` JP nnn (R103). -/
  | jp (nnn : Addr12)
  /-- `2nnn` CALL nnn (R104). -/
  | call (nnn : Addr12)
  /-- `3xkk` SE Vx, kk (R105). -/
  | seImm (x : RegIdx) (kk : Byte)
  /-- `4xkk` SNE Vx, kk (R106). -/
  | sneImm (x : RegIdx) (kk : Byte)
  /-- `5xy0` SE Vx, Vy (R107). -/
  | seReg (x y : RegIdx)
  /-- `6xkk` LD Vx, kk (R133). -/
  | ldImm (x : RegIdx) (kk : Byte)
  /-- `7xkk` ADD Vx, kk (R134). -/
  | addImm (x : RegIdx) (kk : Byte)
  /-- `8xy0` LD Vx, Vy (R135). -/
  | ldReg (x y : RegIdx)
  /-- `8xy1` OR Vx, Vy (R136). -/
  | orReg (x y : RegIdx)
  /-- `8xy2` AND Vx, Vy (R137). -/
  | andReg (x y : RegIdx)
  /-- `8xy3` XOR Vx, Vy (R138). -/
  | xorReg (x y : RegIdx)
  /-- `8xy4` ADD Vx, Vy (R139). -/
  | addReg (x y : RegIdx)
  /-- `8xy5` SUB Vx, Vy (R140). -/
  | subReg (x y : RegIdx)
  /-- `8xy6` SHR Vx, the field `y` ignored (R141, R82). -/
  | shrReg (x y : RegIdx)
  /-- `8xy7` SUBN Vx, Vy (R142). -/
  | subnReg (x y : RegIdx)
  /-- `8xyE` SHL Vx, the field `y` ignored (R143, R82). -/
  | shlReg (x y : RegIdx)
  /-- `9xy0` SNE Vx, Vy (R108). -/
  | sneReg (x y : RegIdx)
  /-- `Annn` LD I, nnn (R170). -/
  | ldI (nnn : Addr12)
  /-- `Bnnn` JP Vx, nnn (R109). -/
  | jpOff (x : RegIdx) (nnn : Addr12)
  /-- `Cxkk` RND Vx, kk (R150). -/
  | rnd (x : RegIdx) (kk : Byte)
  /-- `Dxyn` DRW Vx, Vy, n (R205). -/
  | drw (x y : RegIdx) (n : BitVec 4)
  /-- `Ex9E` SKP Vx (R230). -/
  | skp (x : RegIdx)
  /-- `ExA1` SKNP Vx (R231). -/
  | sknp (x : RegIdx)
  /-- `Fx07` LD Vx, DT (R233). -/
  | ldVxDt (x : RegIdx)
  /-- `Fx0A` LD Vx, K (R234). -/
  | ldVxK (x : RegIdx)
  /-- `Fx15` LD DT, Vx (R235). -/
  | ldDtVx (x : RegIdx)
  /-- `Fx18` LD ST, Vx (R236). -/
  | ldStVx (x : RegIdx)
  /-- `Fx1E` ADD I, Vx (R171). -/
  | addIVx (x : RegIdx)
  /-- `Fx29` LD F, Vx (R172). -/
  | ldFVx (x : RegIdx)
  /-- `Fx30` LD HF, Vx (R173). -/
  | ldHfVx (x : RegIdx)
  /-- `Fx33` LD B, Vx (R174). -/
  | ldBVx (x : RegIdx)
  /-- `Fx55` LD [I], Vx (R175). -/
  | ldMemVx (x : RegIdx)
  /-- `Fx65` LD Vx, [I] (R176). -/
  | ldVxMem (x : RegIdx)
  deriving DecidableEq, Repr

end Sys2Proof
end

