-- ==== Sys2Proof/WellFormed.lean ====
section
/-! DEFINITION. Which instruction terms are instructions. The operand types are the widths of spec/30_encoding.md R71,
and no register operand can be illegal (R74), so one check is left: the register of `Bnnn` (R75). -/

namespace Sys2Proof

/-- `WellFormed i`: `i` is the instruction of some word. The register of `JP Vx, nnn` is selected by the same nibble
that is the top of the address (R75); every other term is well formed. -/
abbrev Instr.WellFormed (i : Instr) : Prop :=
  match i with
  | .jpOff x nnn => x = nnn.extractLsb' 8 4
  | .cls | .ret | .low | .high | .jp _ | .call _ | .seImm _ _ | .sneImm _ _ | .seReg _ _ | .ldImm _ _ | .addImm _ _
  | .ldReg _ _ | .orReg _ _ | .andReg _ _ | .xorReg _ _ | .addReg _ _ | .subReg _ _ | .shrReg _ _ | .subnReg _ _
  | .shlReg _ _ | .sneReg _ _ | .ldI _ | .rnd _ _ | .drw _ _ _ | .skp _ | .sknp _ | .ldVxDt _ | .ldVxK _ | .ldDtVx _
  | .ldStVx _ | .addIVx _ | .ldFVx _ | .ldHfVx _ | .ldBVx _ | .ldMemVx _ | .ldVxMem _ => True

end Sys2Proof
end

