-- ==== Sys2Proof/Decode.lean ====
section
/-! DEFINITION. The decoder and the dispatch multiplexer's verdict (spec/30_encoding.md R71, R72, R76 to R79), the
opcode map as data (R81), the encoder, and the decoder over table words that the host asks for. -/

namespace Sys2Proof

/-- The decoder's six outputs (R71, R72). -/
structure Fields where
  hi : BitVec 4
  x : RegIdx
  y : RegIdx
  n : BitVec 4
  kk : Byte
  nnn : Addr12
  deriving DecidableEq, Repr

/-- The decoder: six fixed bit ranges of the word, total and stateless (R71, R72). -/
def decodeFields (w : Word) : Fields where
  hi := w.extractLsb' 12 4
  x := w.extractLsb' 8 4
  y := w.extractLsb' 4 4
  n := w.extractLsb' 0 4
  kk := w.extractLsb' 0 8
  nnn := w.extractLsb' 0 12

/-- Family `0x0`: the select is the whole word (R79). -/
def decodeSystem (w : Word) : Option Instr :=
  if w = 0x00E0 then some .cls
  else if w = 0x00EE then some .ret
  else if w = 0x00FE then some .low
  else if w = 0x00FF then some .high
  else none

/-- Family `0x8`: the secondary select is `n` (R79). -/
def decodeArith (f : Fields) : Option Instr :=
  match f.n.toNat with
  | 0x0 => some (.ldReg f.x f.y)
  | 0x1 => some (.orReg f.x f.y)
  | 0x2 => some (.andReg f.x f.y)
  | 0x3 => some (.xorReg f.x f.y)
  | 0x4 => some (.addReg f.x f.y)
  | 0x5 => some (.subReg f.x f.y)
  | 0x6 => some (.shrReg f.x f.y)
  | 0x7 => some (.subnReg f.x f.y)
  | 0xE => some (.shlReg f.x f.y)
  | _ => none

/-- Family `0xE`: the secondary select is `kk` (R79). -/
def decodeKey (f : Fields) : Option Instr :=
  match f.kk.toNat with
  | 0x9E => some (.skp f.x)
  | 0xA1 => some (.sknp f.x)
  | _ => none

/-- Family `0xF`: the secondary select is `kk` (R79). -/
def decodeMisc (f : Fields) : Option Instr :=
  match f.kk.toNat with
  | 0x07 => some (.ldVxDt f.x)
  | 0x0A => some (.ldVxK f.x)
  | 0x15 => some (.ldDtVx f.x)
  | 0x18 => some (.ldStVx f.x)
  | 0x1E => some (.addIVx f.x)
  | 0x29 => some (.ldFVx f.x)
  | 0x30 => some (.ldHfVx f.x)
  | 0x33 => some (.ldBVx f.x)
  | 0x55 => some (.ldMemVx f.x)
  | 0x65 => some (.ldVxMem f.x)
  | _ => none

/-- The dispatch multiplexer with its operands (R79): the instruction the word selects, or `none` for `BAD`. Fixed
digits must match (R78; the spec's decision D11, log entry 22). It reads the word alone (R77). -/
def decodeWord (w : Word) : Option Instr :=
  let f := decodeFields w
  match f.hi.toNat with
  | 0x0 => decodeSystem w
  | 0x1 => some (.jp f.nnn)
  | 0x2 => some (.call f.nnn)
  | 0x3 => some (.seImm f.x f.kk)
  | 0x4 => some (.sneImm f.x f.kk)
  | 0x5 => if f.n = 0 then some (.seReg f.x f.y) else none
  | 0x6 => some (.ldImm f.x f.kk)
  | 0x7 => some (.addImm f.x f.kk)
  | 0x8 => decodeArith f
  | 0x9 => if f.n = 0 then some (.sneReg f.x f.y) else none
  | 0xA => some (.ldI f.nnn)
  | 0xB => some (.jpOff f.x f.nnn)
  | 0xC => some (.rnd f.x f.kk)
  | 0xD => some (.drw f.x f.y f.n)
  | 0xE => decodeKey f
  | 0xF => decodeMisc f
  | _ => none

/-- Why bytes are no instruction: fewer than two of them, or a `BAD` word (R70, R83). -/
inductive DecodeReject where
  | tooShort
  | badInstruction (w : Word)
  deriving DecidableEq, Repr

/-- The word of two bytes as they lie in memory, the first at the lower address: big-endian (R54). -/
def wordOfBytes (first second : Byte) : Word := first ++ second

/-- Decoding of a byte sequence: the instruction at its front and the rest. Every instruction is two bytes (R70). -/
def decodeBytes (bytes : List Byte) : Except DecodeReject (Instr × List Byte) :=
  match bytes with
  | first :: second :: rest =>
    match decodeWord (wordOfBytes first second) with
    | some i => .ok (i, rest)
    | none => .error (.badInstruction (wordOfBytes first second))
  | _ => .error .tooShort

/-! The encoder, from the patterns of R81. -/

/-- A word of the format `hi`, `nnn` (R71). -/
def wordNnn (hi : BitVec 4) (nnn : Addr12) : Word := hi ++ nnn

/-- A word of the format `hi`, `x`, `kk` (R71). -/
def wordXkk (hi : BitVec 4) (x : RegIdx) (kk : Byte) : Word := hi ++ x ++ kk

/-- A word of the format `hi`, `x`, `y`, `n` (R71). -/
def wordXyn (hi : BitVec 4) (x y : RegIdx) (n : BitVec 4) : Word := hi ++ x ++ y ++ n

/-- The word of an instruction, one line a row of R81. -/
def encode (i : Instr) : Word :=
  match i with
  | .cls => 0x00E0
  | .ret => 0x00EE
  | .low => 0x00FE
  | .high => 0x00FF
  | .jp nnn => wordNnn 0x1 nnn
  | .call nnn => wordNnn 0x2 nnn
  | .seImm x kk => wordXkk 0x3 x kk
  | .sneImm x kk => wordXkk 0x4 x kk
  | .seReg x y => wordXyn 0x5 x y 0x0
  | .ldImm x kk => wordXkk 0x6 x kk
  | .addImm x kk => wordXkk 0x7 x kk
  | .ldReg x y => wordXyn 0x8 x y 0x0
  | .orReg x y => wordXyn 0x8 x y 0x1
  | .andReg x y => wordXyn 0x8 x y 0x2
  | .xorReg x y => wordXyn 0x8 x y 0x3
  | .addReg x y => wordXyn 0x8 x y 0x4
  | .subReg x y => wordXyn 0x8 x y 0x5
  | .shrReg x y => wordXyn 0x8 x y 0x6
  | .subnReg x y => wordXyn 0x8 x y 0x7
  | .shlReg x y => wordXyn 0x8 x y 0xE
  | .sneReg x y => wordXyn 0x9 x y 0x0
  | .ldI nnn => wordNnn 0xA nnn
  | .jpOff _ nnn => wordNnn 0xB nnn
  | .rnd x kk => wordXkk 0xC x kk
  | .drw x y n => wordXyn 0xD x y n
  | .skp x => wordXkk 0xE x 0x9E
  | .sknp x => wordXkk 0xE x 0xA1
  | .ldVxDt x => wordXkk 0xF x 0x07
  | .ldVxK x => wordXkk 0xF x 0x0A
  | .ldDtVx x => wordXkk 0xF x 0x15
  | .ldStVx x => wordXkk 0xF x 0x18
  | .addIVx x => wordXkk 0xF x 0x1E
  | .ldFVx x => wordXkk 0xF x 0x29
  | .ldHfVx x => wordXkk 0xF x 0x30
  | .ldBVx x => wordXkk 0xF x 0x33
  | .ldMemVx x => wordXkk 0xF x 0x55
  | .ldVxMem x => wordXkk 0xF x 0x65

/-! The opcode map as data (R81), so that the decoder can be held against it. -/

/-- One row of R81: a word `w` is the instruction when `w AND mask = pattern`. -/
structure OpcodeRow where
  mnemonic : String
  pattern : Word
  mask : Word
  deriving DecidableEq, Repr

/-- `r.Matches w`: the word is an instruction of the row (R81). -/
abbrev OpcodeRow.Matches (r : OpcodeRow) (w : Word) : Prop := w &&& r.mask = r.pattern

/-- The rows of R81 in its order, under the mnemonics of spec/opcode_table.json. -/
def opcodeTable : List OpcodeRow :=
  [⟨"CLS", 0x00E0, 0xFFFF⟩, ⟨"RET", 0x00EE, 0xFFFF⟩, ⟨"LOW", 0x00FE, 0xFFFF⟩, ⟨"HIGH", 0x00FF, 0xFFFF⟩,
   ⟨"JP_nnn", 0x1000, 0xF000⟩, ⟨"CALL_nnn", 0x2000, 0xF000⟩, ⟨"SE_Vx__kk", 0x3000, 0xF000⟩,
   ⟨"SNE_Vx__kk", 0x4000, 0xF000⟩, ⟨"SE_Vx__Vy", 0x5000, 0xF00F⟩, ⟨"LD_Vx__kk", 0x6000, 0xF000⟩,
   ⟨"ADD_Vx__kk", 0x7000, 0xF000⟩] ++
  [⟨"LD_Vx__Vy", 0x8000, 0xF00F⟩, ⟨"OR_Vx__Vy", 0x8001, 0xF00F⟩, ⟨"AND_Vx__Vy", 0x8002, 0xF00F⟩,
   ⟨"XOR_Vx__Vy", 0x8003, 0xF00F⟩, ⟨"ADD_Vx__Vy", 0x8004, 0xF00F⟩, ⟨"SUB_Vx__Vy", 0x8005, 0xF00F⟩,
   ⟨"SHR_Vx", 0x8006, 0xF00F⟩, ⟨"SUBN_Vx__Vy", 0x8007, 0xF00F⟩, ⟨"SHL_Vx", 0x800E, 0xF00F⟩,
   ⟨"SNE_Vx__Vy", 0x9000, 0xF00F⟩, ⟨"LD_I__nnn", 0xA000, 0xF000⟩, ⟨"JP_Vx__nnn", 0xB000, 0xF000⟩,
   ⟨"RND_Vx__kk", 0xC000, 0xF000⟩, ⟨"DRW_Vx__Vy__n", 0xD000, 0xF000⟩] ++
  [⟨"SKP_Vx", 0xE09E, 0xF0FF⟩, ⟨"SKNP_Vx", 0xE0A1, 0xF0FF⟩, ⟨"LD_Vx__DT", 0xF007, 0xF0FF⟩,
   ⟨"LD_Vx__K", 0xF00A, 0xF0FF⟩, ⟨"LD_DT__Vx", 0xF015, 0xF0FF⟩, ⟨"LD_ST__Vx", 0xF018, 0xF0FF⟩,
   ⟨"ADD_I__Vx", 0xF01E, 0xF0FF⟩, ⟨"LD_F__Vx", 0xF029, 0xF0FF⟩, ⟨"LD_HF__Vx", 0xF030, 0xF0FF⟩,
   ⟨"LD_B__Vx", 0xF033, 0xF0FF⟩, ⟨"LD__I___Vx", 0xF055, 0xF0FF⟩, ⟨"LD_Vx___I", 0xF065, 0xF0FF⟩]

/-- The mnemonic of an instruction's row, as spec/opcode_table.json spells it. -/
def Instr.mnemonic (i : Instr) : String :=
  match i with
  | .cls => "CLS"
  | .ret => "RET"
  | .low => "LOW"
  | .high => "HIGH"
  | .jp _ => "JP_nnn"
  | .call _ => "CALL_nnn"
  | .seImm _ _ => "SE_Vx__kk"
  | .sneImm _ _ => "SNE_Vx__kk"
  | .seReg _ _ => "SE_Vx__Vy"
  | .ldImm _ _ => "LD_Vx__kk"
  | .addImm _ _ => "ADD_Vx__kk"
  | .ldReg _ _ => "LD_Vx__Vy"
  | .orReg _ _ => "OR_Vx__Vy"
  | .andReg _ _ => "AND_Vx__Vy"
  | .xorReg _ _ => "XOR_Vx__Vy"
  | .addReg _ _ => "ADD_Vx__Vy"
  | .subReg _ _ => "SUB_Vx__Vy"
  | .shrReg _ _ => "SHR_Vx"
  | .subnReg _ _ => "SUBN_Vx__Vy"
  | .shlReg _ _ => "SHL_Vx"
  | .sneReg _ _ => "SNE_Vx__Vy"
  | .ldI _ => "LD_I__nnn"
  | .jpOff _ _ => "JP_Vx__nnn"
  | .rnd _ _ => "RND_Vx__kk"
  | .drw _ _ _ => "DRW_Vx__Vy__n"
  | .skp _ => "SKP_Vx"
  | .sknp _ => "SKNP_Vx"
  | .ldVxDt _ => "LD_Vx__DT"
  | .ldVxK _ => "LD_Vx__K"
  | .ldDtVx _ => "LD_DT__Vx"
  | .ldStVx _ => "LD_ST__Vx"
  | .addIVx _ => "ADD_I__Vx"
  | .ldFVx _ => "LD_F__Vx"
  | .ldHfVx _ => "LD_HF__Vx"
  | .ldBVx _ => "LD_B__Vx"
  | .ldMemVx _ => "LD__I___Vx"
  | .ldVxMem _ => "LD_Vx___I"

/-! Words numbered as spec/opcode_table.json numbers them. -/

/-- The bytes of a table word as the hardware stores them: the low `nbits` bits of `w`, one 16-bit word with its high
byte at the lower address (R54, R70). -/
def tableBytes (nbits w : Nat) : List Byte :=
  [BitVec.ofNat 8 (w % 2 ^ nbits / 256), BitVec.ofNat 8 (w % 2 ^ nbits)]

/-- The instruction the decoder reads from the table word `w` of `nbits` bits. -/
def decodeTableWord (nbits w : Nat) : Option Instr :=
  match decodeBytes (tableBytes nbits w) with
  | .ok (i, _) => some i
  | .error _ => none

end Sys2Proof
end

