-- ==== Sys2Proof/Config.lean ====
section
/-! DEFINITION. What a construction fixes (spec/00_scope.md R7, R8; spec/10_state.md R41, R42) and the one free
value of the machine, the random byte of `Cxkk` (spec/41_register_alu.md R151). -/

namespace Sys2Proof

/-- `MEM_SIZE`, 4096 bytes (R7). -/
abbrev Config.memSize : Nat := 4096

/-- `PROG_BASE`, the program's load address and the reset `pc` (R7, R29). -/
abbrev Config.progBase : Nat := 0x200

/-- `MAX_PROG`, the longest program in bytes (R7, R281). -/
abbrev Config.maxProg : Nat := 3584

/-- `STACK_DEPTH`, the most return addresses the call stack holds (R7, R33). -/
abbrev Config.stackDepth : Nat := 16

/-- `FONT_SMALL_BASE` (R7). -/
abbrev Config.fontSmallBase : Nat := 0x000

/-- `FONT_LARGE_BASE` (R7). -/
abbrev Config.fontLargeBase : Nat := 0x050

/-- The construction-time configuration, which no step changes (R8, R41, R42): the two quirks, the contents of the
two fonts (decision D5) and whether the large one is present (decision D6, OPEN). -/
structure Params where
  vfResetQuirk : Bool
  jumpingQuirk : Bool
  fontSmall : Vector Byte 80
  fontLarge : Vector Byte 160
  largeFontIncluded : Bool
  deriving DecidableEq, Repr

/-- PRESUMED (log entry 4): the small-font bytes that spec/93_implementation_defined.md G9 offers as the default of
the parameter `FONT_SMALL`, five bytes a digit. Unsafe: the source gives no glyph bytes. -/
def Config.defaultFontSmall : Vector Byte 80 := #v[
  0xF0, 0x90, 0x90, 0x90, 0xF0,  0x20, 0x60, 0x20, 0x20, 0x70,
  0xF0, 0x10, 0xF0, 0x80, 0xF0,  0xF0, 0x10, 0xF0, 0x10, 0xF0,
  0x90, 0x90, 0xF0, 0x10, 0x10,  0xF0, 0x80, 0xF0, 0x10, 0xF0,
  0xF0, 0x80, 0xF0, 0x90, 0xF0,  0xF0, 0x10, 0x20, 0x40, 0x40,
  0xF0, 0x90, 0xF0, 0x90, 0xF0,  0xF0, 0x90, 0xF0, 0x10, 0xF0,
  0xF0, 0x90, 0xF0, 0x90, 0x90,  0xE0, 0x90, 0xE0, 0x90, 0xE0,
  0xF0, 0x80, 0x80, 0x80, 0xF0,  0xE0, 0x90, 0x90, 0x90, 0xE0,
  0xF0, 0x80, 0xF0, 0x80, 0xF0,  0xF0, 0x80, 0xF0, 0x80, 0x80]

/-- DESIGN CHOICE (log entries 3, 4, 5): the parameters `State.reset` is constructed with. Both quirks off is the
start convention of spec/95_test_vectors.md; the large font is left out (D6 is open). No statement rests on them. -/
def Config.defaultParams : Params where
  vfResetQuirk := false
  jumpingQuirk := false
  fontSmall := Config.defaultFontSmall
  fontLarge := Vector.replicate 160 0
  largeFontIncluded := false

/-- The free value of the machine: the byte that the `n`-th `Cxkk` of a run draws (R94, R151; log entry 2). It has no
body, so every sequence of bytes is admitted and nothing can be proved of a particular draw. -/
opaque Config.draw8 : Nat → Byte

end Sys2Proof
end

