-- ==== Sys2Proof/Machine/State.lean ====
section
/-! DEFINITION. The machine's state (spec/10_state.md R42), the results of a step (spec/30_encoding.md R93) and the
state after reset (spec/70_reset_and_hazards.md R283). -/

namespace Sys2Proof.Machine

/-- The framebuffer: 128 columns of 64 cells, `FB[c][r]`, `true` for a lit pixel (R37). -/
abbrev Framebuffer := Vector (Vector Bool 64) 128

/-- A failure of a step, with its payload (R251). The engine survives it (R250): the model answers a next state whose
`report` holds it (log entry 1), so none of these stops a run. `ProgramTooLarge` is `construct`'s, see `Fault`. -/
inductive Failure where
  /-- R252: the fetch at `pc > 0xFFE`. -/
  | badProgramCounter (pc : Word)
  /-- R253: a `BAD` word, with the `pc` after the advance. -/
  | badInstruction (opcode pc : Word)
  /-- R254: `2nnn` with a full stack. -/
  | stackOverflow
  /-- R255: `00EE` with an empty stack. -/
  | stackUnderflow
  /-- R256: `Fx1E` with a sum above `0xFFF`. -/
  | indexOverflow
  /-- R257: an `I`-based access past the end of memory. -/
  | outOfBounds (addr : Word) (len : Nat)
  deriving DecidableEq, Repr

/-- The state: R42's record, in its names, and two fields of the model's own (`report`, `draws`). -/
structure State where
  /-- The general registers (R20). -/
  V : Vector Byte 16
  /-- The index register (R31). -/
  I : Word
  /-- The program counter (R25). -/
  pc : Word
  /-- The delay timer (R34). -/
  DT : Byte
  /-- The sound timer (R35). -/
  ST : Byte
  /-- The call stack, the most recent return address first (R33; log entry 26). -/
  stack : List Word
  /-- The memory, the bytes that differ from the construction contents of R52 (R50). -/
  mem : List Host.Cell
  /-- The framebuffer (R37). -/
  FB : Framebuffer
  /-- The resolution mode (R38). -/
  hires : Bool
  /-- The input latch (R36). -/
  key : Vector Bool 16
  /-- The configuration fixed at construction (R8, R41). No step changes it. -/
  params : Params
  /-- The model's own: the result the latest step returned to the host, `none` for success (R93, R250; log entry 1).
  No instruction reads it. -/
  report : Option Failure
  /-- The model's own: how many random bytes have been drawn (R151; log entry 2). -/
  draws : Nat
  deriving DecidableEq, Repr

/-- What ends a run with a fault. No step raises one: the engine survives every failure of a step (R250). -/
inductive Fault where
  /-- Raised by `construct` alone, code 1: the program is longer than 3584 bytes and no engine is created (R258, R281),
  so there is no next state. Safe: it is the spec's own outcome. -/
  | programTooLarge (len : Nat)
  deriving DecidableEq, Repr

/-- The cases to which the spec gives no meaning (R262). -/
inductive Refusal where
  /-- Raised by `SKP` and `SKNP` with `Vx > 0F` (R232, R262). Safe: no claim about such a run can be proved. -/
  | keyIndexOutOfRange
  /-- Raised by the host's `set_key` and `clear_key` with an index above 15 (R267, R262). Safe, in the same way. -/
  | hostKeyIndexOutOfRange
  /-- Raised by an arm of `exec` whose instruction has no meaning yet; no arm raises it. Safe. -/
  | notModelled (mnemonic : String)
  deriving DecidableEq, Repr

/-- The result of a step (R93). -/
abbrev Result := Host.Outcome State Fault Refusal

/-- The state that `construct` creates, before the program is placed (R283): the memory holds R52's fonts and zeros,
which are what unlisted addresses read as. The zeros of `V`, `I`, `DT`, `ST`, the empty stack, the low-resolution mode and the released keys
are the spec's decisions D3, D7 and D27 (log entries 7, 8). -/
def State.fresh (params : Params) : State where
  V := Vector.replicate 16 0
  I := 0
  pc := BitVec.ofNat 16 Config.progBase
  DT := 0
  ST := 0
  stack := []
  mem := []
  FB := Vector.replicate 128 (Vector.replicate 64 false)
  hires := false
  key := Vector.replicate 16 false
  params := params
  report := none
  draws := 0

/-- The machine right after reset: construction is the only reset (R280), here with an empty program (which R281
accepts) and the parameters of `Config.defaultParams` (log entries 3 to 5, 9). -/
def State.reset : State := State.fresh Config.defaultParams

end Sys2Proof.Machine
end

