-- ==== Sys2Proof/Machine/Ops.lean ====
section
/-! DEFINITION. The named operations over the state: registers, program counter, memory, call stack, framebuffer and
key latch, and the one way a step fails (spec/60_exceptions.md R250, R259). Every meaning is written over these. -/

namespace Sys2Proof.Machine

/-! ## Registers, timers, mode -/

/-- `V[x]` (R10, R20). No register is hardwired. -/
def State.reg (s : State) (x : RegIdx) : Byte := s.V[x.toNat]'x.isLt

/-- `V[x] <- b` (R10, R20). -/
def State.setReg (s : State) (x : RegIdx) (b : Byte) : State := { s with V := s.V.set x.toNat b x.isLt }

/-- `I <- w` (R31). -/
def State.setI (s : State) (w : Word) : State := { s with I := w }

/-- `pc <- w`: a control transfer checks nothing (R100; decisions D20, D31, log entry 10). -/
def State.setPc (s : State) (w : Word) : State := { s with pc := w }

/-- `DT <- b` (R34). -/
def State.setDT (s : State) (b : Byte) : State := { s with DT := b }

/-- `ST <- b` (R35). -/
def State.setST (s : State) (b : Byte) : State := { s with ST := b }

/-- `hires <- b` (R38). -/
def State.setHires (s : State) (b : Bool) : State := { s with hires := b }

/-- The framebuffer replaced (R37). -/
def State.setFB (s : State) (fb : Framebuffer) : State := { s with FB := fb }

/-- The register file replaced, for a block load (R176). -/
def State.setV (s : State) (V : Vector Byte 16) : State := { s with V := V }

/-- The call stack replaced, for a push or a pop (R33). -/
def State.setStack (s : State) (stack : List Word) : State := { s with stack := stack }

/-- A skip: `pc <- pc + 2` (R101). The 16-bit sum wraps only from a `pc` that no fetch leaves (log entry 24). -/
def State.skip (s : State) : State := { s with pc := s.pc + 2 }

/-- A skip when the condition holds (R105 to R108, R230, R231). -/
def State.skipIf (s : State) (cond : Bool) : State := if cond then s.skip else s

/-- Back to the address of the instruction itself: `pc <- pc - 2` (R234). -/
def State.rewind (s : State) : State := { s with pc := s.pc - 2 }

/-- The PC advance, before dispatch (R90, R91). It begins a new result: nothing is reported yet (log entry 1). -/
def State.advance (s : State) : State := { s with pc := s.pc + 2, report := none }

/-! ## Failing -/

/-- THE ONE WAY A STEP FAILS (R250, R259): the failure with its payload is returned to the host and nothing else
changes. There is no trap entry (R261): no state is saved and `pc` stays. The engine remains usable, so this is a next
state (log entry 1); the "return" is the host's next `step`, which starts from this state (R261). -/
def State.fail (s : State) (f : Failure) : Result := .next { s with report := some f }

/-- The numeric code of a failure (R251; the codes are the spec's decision D18). -/
def Failure.code (f : Failure) : Nat :=
  match f with
  | .badProgramCounter _ => 2
  | .badInstruction _ _ => 3
  | .stackOverflow => 4
  | .stackUnderflow => 5
  | .indexOverflow => 6
  | .outOfBounds _ _ => 7

/-- The numeric code of `construct`'s failure (R251). -/
def Fault.code (f : Fault) : Nat :=
  match f with
  | .programTooLarge _ => 1

/-! ## Memory -/

/-- What an address that memory does not list reads as: the construction contents outside the program (R52): the
small font, the large font when it is included, else 0 (0 is the spec's decision D4, log entry 6). -/
def background (p : Params) (a : Nat) : Byte :=
  if ha : a < 80 then p.fontSmall[a]
  else if hb : a < 240 then (if p.largeFontIncluded then p.fontLarge[a - 80] else 0)
  else 0

/-- The byte at `a`: the listed one, else the background's. -/
def Memory.read (bg : Nat → Byte) (m : List Host.Cell) (a : Nat) : Byte :=
  match m with
  | [] => bg a
  | (b, u) :: rest => if a = b then u else Memory.read bg rest a

/-- Writing `v` at `a`, in the canonical form: the list stays sorted, and a byte equal to the background's is not
listed. -/
def Memory.write (bg : Nat → Byte) (m : List Host.Cell) (a : Nat) (v : Byte) : List Host.Cell :=
  match m with
  | [] => if v = bg a then [] else [(a, v)]
  | (b, u) :: rest =>
    if a < b then (if v = bg a then (b, u) :: rest else (a, v) :: (b, u) :: rest)
    else if a = b then (if v = bg a then rest else (a, v) :: rest)
    else (b, u) :: Memory.write bg rest a v

/-- The canonical form of memory: addresses strictly rising and inside the address space (R50), no entry equal to what
an unlisted address reads as. -/
abbrev Memory.wf (p : Params) (m : List Host.Cell) : Prop :=
  m.Pairwise (fun c d => c.1 < d.1) ∧ ∀ c ∈ m, c.1 < Config.memSize ∧ c.2 ≠ background p c.1

/-- `MemRead(a, 1)` (R10). Reads have no side effect (R59). Callers have checked that `a < 4096` (log entry 25). -/
def State.readByte (s : State) (a : Nat) : Byte := Memory.read (background s.params) s.mem a

/-- `MemWrite(a, 1, v)` (R10). Callers have checked that `a < 4096` (log entry 25). -/
def State.writeByte (s : State) (a : Nat) (v : Byte) : State :=
  { s with mem := Memory.write (background s.params) s.mem a v }

/-- The `len` bytes at `a, a + 1, …`, in ascending order (R61, R177). -/
def State.readBytes (s : State) (a len : Nat) : List Byte := (List.range len).map fun k => s.readByte (a + k)

/-- Byte after byte written at `a, a + 1, …`, in ascending order (R61, R177). -/
def Memory.writeAll (bg : Nat → Byte) (m : List Host.Cell) (a : Nat) (bytes : List Byte) : List Host.Cell :=
  match bytes with
  | [] => m
  | b :: rest => Memory.writeAll bg (Memory.write bg m a b) (a + 1) rest

/-- The bytes written at `a, a + 1, …` (R177). -/
def State.writeBytes (s : State) (a : Nat) (bytes : List Byte) : State :=
  { s with mem := Memory.writeAll (background s.params) s.mem a bytes }

/-- The bound of an `I`-based access (R57): the whole range `[I, I + len)` lies in memory, computed without wrap. -/
def State.inBounds (s : State) (len : Nat) : Bool := s.I.toNat + len ≤ Config.memSize

/-- An `I`-based access of `len` bytes: `OutOfBounds` with none of the instruction's writes when the range passes the
end of memory, checked before the first access (R57, R257; decision D28, log entry 21); else the access. -/
def State.accessIndexed (s : State) (len : Nat) (access : State → Result) : Result :=
  if s.inBounds len then access s else s.fail (.outOfBounds s.I len)

/-- The opcode fetch (R54, R58): the two bytes at `pc` and `pc + 1`, big-endian, whatever the parity of `pc`; `none`
when `pc + 1 > 0xFFF`. -/
def State.fetch (s : State) : Option Word :=
  if s.pc.toNat + 1 > 0xFFF then none
  else some (wordOfBytes (s.readByte s.pc.toNat) (s.readByte (s.pc.toNat + 1)))

/-- The table word `w` of `nbits` bits stored where the next step fetches: at `pc`, which is first put to the load
address `0x200` if no fetch from it can succeed (log entry 28). -/
def State.placeWord (s : State) (nbits w : Nat) : State :=
  let s := if s.pc.toNat + 1 > 0xFFF then s.setPc (BitVec.ofNat 16 Config.progBase) else s
  s.writeBytes s.pc.toNat (tableBytes nbits w)

/-! ## The call stack -/

/-- `push(v)`, or `StackOverflow` on a full stack (R33, R254). More than 16 entries, which no run reaches, count as
full (log entry 24). -/
def State.push (s : State) (v : Word) (andThen : State → Result) : Result :=
  if s.stack.length < Config.stackDepth then andThen (s.setStack (v :: s.stack)) else s.fail .stackOverflow

/-- `pop()`, or `StackUnderflow` on an empty stack (R33, R255). -/
def State.pop (s : State) (andThen : Word → State → Result) : Result :=
  match s.stack with
  | [] => s.fail .stackUnderflow
  | v :: rest => andThen v (s.setStack rest)

/-! ## The framebuffer -/

/-- `FB[c][r]`; cells that do not exist read as `false` (no caller names one). -/
def Framebuffer.lit (fb : Framebuffer) (c r : Nat) : Bool := if h : c < 128 ∧ r < 64 then (fb[c]'h.1)[r]'h.2 else false

/-- `FB[c][r] <- not FB[c][r]` (R205). -/
def Framebuffer.toggle (fb : Framebuffer) (c r : Nat) : Framebuffer :=
  if h : c < 128 ∧ r < 64 then fb.set c ((fb[c]'h.1).set r (!(fb[c]'h.1)[r]'h.2) h.2) h.1 else fb

/-- Every cell `false`, the whole 128×64 storage (R202; decision D8, log entry 18). -/
def Framebuffer.cleared : Framebuffer := Vector.replicate 128 (Vector.replicate 64 false)

/-- One set sprite bit at a cell: the cell is toggled, and the collision accumulator is set when it was lit (R209,
R210). -/
def plot (acc : Framebuffer × Bool) (cell : Nat × Nat) : Framebuffer × Bool :=
  (Framebuffer.toggle acc.1 cell.1 cell.2, acc.2 || Framebuffer.lit acc.1 cell.1 cell.2)

/-- The compositor with its collision detector (R200, R210): the cells of the set sprite bits, in order, from a
cleared accumulator. -/
def composite (fb : Framebuffer) (cells : List (Nat × Nat)) : Framebuffer × Bool := cells.foldl plot (fb, false)

/-! ## The key latch -/

/-- `key[k]` (R36); there is no key above 15. -/
def State.pressed (s : State) (k : Nat) : Bool := if h : k < 16 then s.key[k] else false

/-- `min { k | key[k] }`, if any key is pressed (R234). -/
def State.lowestPressed (s : State) : Option Nat := (List.range 16).find? fun k => s.pressed k

/-! ## The random draw -/

/-- `draw8()`: the free byte of this draw (R94, R151; log entry 2). -/
def State.draw (s : State) : Byte := Config.draw8 s.draws

/-- The draw is used up: the next `Cxkk` draws another free byte. -/
def State.drawn (s : State) : State := { s with draws := s.draws + 1 }

end Sys2Proof.Machine
end

