-- ==== Sys2Proof/Machine/Flags.lean ====
section
/-! DEFINITION. The flag computations and the order of the flag write (spec/10_state.md R30; spec/41_register_alu.md
R132, R136 to R144; spec/43_display.md R211). -/

namespace Sys2Proof.Machine

/-- A flag as the byte `VF` takes: `01` or `00` (R200). -/
def flagByte (b : Bool) : Byte := if b then 1 else 0

/-- The carry of `8xy4`: the unwrapped sum exceeds 255 (R139). -/
def carryFlag (a b : Byte) : Byte := flagByte (decide (a.toNat + b.toNat > 255))

/-- The no-borrow flag of `a - b`: 1 when `a ≥ b`, equality included (R140, R142, R144). -/
def noBorrowFlag (a b : Byte) : Byte := flagByte (decide (a.toNat ≥ b.toNat))

/-- The bit that a right shift moves out: bit 0 before the shift (R141). -/
def shiftRightFlag (a : Byte) : Byte := flagByte (a.getLsbD 0)

/-- The bit that a left shift moves out: bit 7 before the shift (R143). -/
def shiftLeftFlag (a : Byte) : Byte := flagByte (a.getLsbD 7)

/-- A result to `V[x]` and then a flag to `VF`: the flag write lands last (R132; decision D12, log entry 11). -/
def State.setRegFlag (s : State) (x : RegIdx) (result flag : Byte) : State := (s.setReg x result).setReg VF flag

/-- A result to `V[x]`, and then `VF <- 0` only under `vf_reset_quirk` (R136 to R138). -/
def State.setRegLogic (s : State) (x : RegIdx) (result : Byte) : State :=
  if s.params.vfResetQuirk then s.setRegFlag x result 0 else s.setReg x result

end Sys2Proof.Machine
end

