-- ==== Sys2Proof/Machine/Operands.lean ====
section
/-! DEFINITION. The operand forms (spec/30_encoding.md R73 to R75; spec/42_index_memory.md R177; spec/43_display.md
R201, R205 to R208). -/

namespace Sys2Proof.Machine

/-- `zext_16(nnn)` (R73). -/
def addrWord (nnn : Addr12) : Word := nnn.setWidth 16

/-- `zext_16(b)` of a register's byte (R10, R109). -/
def byteWord (b : Byte) : Word := b.setWidth 16

/-- The target of `Bnnn`: `zext_16(nnn) + zext_16(V[x])`, at most `0x10FE`, so the 16-bit sum does not wrap (R109). -/
def offsetTarget (nnn : Addr12) (b : Byte) : Word := addrWord nnn + byteWord b

/-- The address of a small glyph, `V[x] * 5`, unmasked (R172; decision D26, log entry 20). -/
def smallGlyph (b : Byte) : Word := BitVec.ofNat 16 (Config.fontSmallBase + b.toNat * 5)

/-- The address of a large glyph, `0x50 + V[x] * 10`, unmasked (R173; decision D26, log entry 20). -/
def largeGlyph (b : Byte) : Word := BitVec.ofNat 16 (Config.fontLargeBase + b.toNat * 10)

/-- The block operand `V0..Vx`: `x + 1` registers, the last one named by `x` (R74). -/
def State.regBlock (s : State) (x : RegIdx) : List Byte := s.V.toList.take (x.toNat + 1)

/-- The number of registers, and bytes, of the block `V0..Vx` (R74). -/
def blockLen (x : RegIdx) : Nat := x.toNat + 1

/-- `V[k], V[k + 1], …` loaded with the bytes, in ascending order; there is no register above 15 (R176). -/
def loadRegs (V : Vector Byte 16) (k : Nat) (bytes : List Byte) : Vector Byte 16 :=
  match bytes with
  | [] => V
  | b :: rest => loadRegs (if h : k < 16 then V.set k b else V) (k + 1) rest

/-- `I <- I + count` under `jumping_quirk`, else nothing (R175 to R177). -/
def State.postIncrement (s : State) (count : Nat) : State :=
  if s.params.jumpingQuirk then s.setI (s.I + BitVec.ofNat 16 count) else s

/-- The three decimal digits of a byte, hundreds first (R174). -/
def decimalDigits (b : Byte) : List Byte :=
  [BitVec.ofNat 8 (b.toNat / 100), BitVec.ofNat 8 (b.toNat / 10 % 10), BitVec.ofNat 8 (b.toNat % 10)]

/-- `r mod (kk + 1)`, with `kk + 1` computed without wrap (R150; decision D14, log entry 13). -/
def limitDraw (r kk : Byte) : Byte := BitVec.ofNat 8 (r.toNat % (kk.toNat + 1))

/-- The key number that a key test reads in `V[x]`: one of 0..15, else the instruction has no meaning (R232). -/
def keyNumber (b : Byte) : Option Nat := if b.toNat ≤ 15 then some b.toNat else none

/-! ## Sprites -/

/-- `W`, the active width (R201). -/
def State.activeWidth (s : State) : Nat := if s.hires then 128 else 64

/-- `H`, the active height (R201). -/
def State.activeHeight (s : State) : Nat := if s.hires then 64 else 32

/-- The shape of a sprite: its rows, its columns and its bytes (R205). -/
structure SpriteShape where
  rows : Nat
  width : Nat
  len : Nat
  deriving DecidableEq, Repr

/-- The shape that `n` selects: the 16×16 big sprite for `n = 0` in high-resolution mode (R207), else `n` rows of 8
columns (R206), which is nothing for `n = 0` in low-resolution mode (decision D22, log entry 19). -/
def spriteShape (hires : Bool) (n : BitVec 4) : SpriteShape :=
  if hires ∧ n = 0 then ⟨16, 16, 32⟩ else ⟨n.toNat, 8, n.toNat⟩

/-- The sprite bit at a row and column offset, column 0 being the most significant bit: from the byte at `I + row`, or
from the two bytes at `I + 2 row` (R205 to R207; decision D10, log entry 19). -/
def State.spriteBit (s : State) (shape : SpriteShape) (row col : Nat) : Bool :=
  if shape.width = 8 then (s.readByte (s.I.toNat + row)).getLsbD (7 - col)
  else (wordOfBytes (s.readByte (s.I.toNat + 2 * row)) (s.readByte (s.I.toNat + 2 * row + 1))).getLsbD (15 - col)

/-- The cell of a sprite bit: the origin is taken modulo the active dimensions and the offset wraps (R208). -/
def State.spriteCell (s : State) (x y : RegIdx) (row col : Nat) : Nat × Nat :=
  (((s.reg x).toNat % s.activeWidth + col) % s.activeWidth, ((s.reg y).toNat % s.activeHeight + row) % s.activeHeight)

/-- The cells of the set sprite bits, row by row and column by column (R205, R209). -/
def State.spriteCells (s : State) (x y : RegIdx) (shape : SpriteShape) : List (Nat × Nat) :=
  (List.range shape.rows).flatMap fun row =>
    ((List.range shape.width).filter fun col => s.spriteBit shape row col).map fun col => s.spriteCell x y row col

end Sys2Proof.Machine
end

