-- ==== Sys2Proof/Machine/Alu.lean ====
section
/-! DEFINITION. The register file and ALU operations (spec/41_register_alu.md). Operands are read before any register
is written (R131): every meaning reads them from the state it is given. -/

namespace Sys2Proof.Machine

/-- `6xkk` LD Vx, kk (R133). -/
def execLdImm (x : RegIdx) (kk : Byte) (s : State) : Result := .next (s.setReg x kk)

/-- `7xkk` ADD Vx, kk: modulo 256, no flag (R134). -/
def execAddImm (x : RegIdx) (kk : Byte) (s : State) : Result := .next (s.setReg x (s.reg x + kk))

/-- `8xy0` LD Vx, Vy (R135). -/
def execLdReg (x y : RegIdx) (s : State) : Result := .next (s.setReg x (s.reg y))

/-- `8xy1` OR Vx, Vy (R136). -/
def execOrReg (x y : RegIdx) (s : State) : Result := .next (s.setRegLogic x (s.reg x ||| s.reg y))

/-- `8xy2` AND Vx, Vy (R137). -/
def execAndReg (x y : RegIdx) (s : State) : Result := .next (s.setRegLogic x (s.reg x &&& s.reg y))

/-- `8xy3` XOR Vx, Vy (R138). -/
def execXorReg (x y : RegIdx) (s : State) : Result := .next (s.setRegLogic x (s.reg x ^^^ s.reg y))

/-- `8xy4` ADD Vx, Vy with carry out (R139). -/
def execAddReg (x y : RegIdx) (s : State) : Result :=
  .next (s.setRegFlag x (s.reg x + s.reg y) (carryFlag (s.reg x) (s.reg y)))

/-- `8xy5` SUB Vx, Vy, the flag is no-borrow (R140). -/
def execSubReg (x y : RegIdx) (s : State) : Result :=
  .next (s.setRegFlag x (s.reg x - s.reg y) (noBorrowFlag (s.reg x) (s.reg y)))

/-- `8xy6` SHR Vx: logical, by one bit (R141). -/
def execShrReg (x : RegIdx) (s : State) : Result :=
  .next (s.setRegFlag x (s.reg x >>> 1) (shiftRightFlag (s.reg x)))

/-- `8xy7` SUBN Vx, Vy: `V[y] - V[x]`, the flag is no-borrow (R142). -/
def execSubnReg (x y : RegIdx) (s : State) : Result :=
  .next (s.setRegFlag x (s.reg y - s.reg x) (noBorrowFlag (s.reg y) (s.reg x)))

/-- `8xyE` SHL Vx: by one bit, modulo 256 (R143). -/
def execShlReg (x : RegIdx) (s : State) : Result :=
  .next (s.setRegFlag x (s.reg x <<< 1) (shiftLeftFlag (s.reg x)))

/-- `Cxkk` RND Vx, kk: `r mod (kk + 1)` of the step's free draw (R150, R151). -/
def execRnd (x : RegIdx) (kk : Byte) (s : State) : Result := .next ((s.setReg x (limitDraw s.draw kk)).drawn)

end Sys2Proof.Machine
end

