-- ==== Sys2Proof/Machine/ControlFlow.lean ====
section
/-! DEFINITION. Control flow: return, jumps, call, skips (spec/40_control_flow.md). On entry `pc` already holds the
fetch address + 2 (R90, R91). -/

namespace Sys2Proof.Machine

/-- `00EE` RET: `pc <- pop()` (R102). -/
def execRet (s : State) : Result := s.pop fun v t => .next (t.setPc v)

/-- `1nnn` JP nnn: `pc <- zext_16(nnn)` (R103). -/
def execJp (nnn : Addr12) (s : State) : Result := .next (s.setPc (addrWord nnn))

/-- `2nnn` CALL nnn: `push(pc)`, then `pc <- zext_16(nnn)` (R104). -/
def execCall (nnn : Addr12) (s : State) : Result := s.push s.pc fun t => .next (t.setPc (addrWord nnn))

/-- `3xkk` SE Vx, kk: skip if `V[x] == kk` (R105). -/
def execSeImm (x : RegIdx) (kk : Byte) (s : State) : Result := .next (s.skipIf (s.reg x == kk))

/-- `4xkk` SNE Vx, kk: skip if `V[x] != kk` (R106). -/
def execSneImm (x : RegIdx) (kk : Byte) (s : State) : Result := .next (s.skipIf (s.reg x != kk))

/-- `5xy0` SE Vx, Vy: skip if `V[x] == V[y]` (R107). -/
def execSeReg (x y : RegIdx) (s : State) : Result := .next (s.skipIf (s.reg x == s.reg y))

/-- `9xy0` SNE Vx, Vy: skip if `V[x] != V[y]` (R108). -/
def execSneReg (x y : RegIdx) (s : State) : Result := .next (s.skipIf (s.reg x != s.reg y))

/-- `Bnnn` JP Vx, nnn: `pc <- zext_16(nnn) + zext_16(V[x])` (R109). -/
def execJpOff (x : RegIdx) (nnn : Addr12) (s : State) : Result := .next (s.setPc (offsetTarget nnn (s.reg x)))

end Sys2Proof.Machine
end

