-- ==== Sys2Proof/Machine/Display.lean ====
section
/-! DEFINITION. The framebuffer, the XOR compositor and the collision detector (spec/43_display.md). -/

namespace Sys2Proof.Machine

/-- `00E0` CLS: every cell `false`; `hires` unchanged (R202). -/
def execCls (s : State) : Result := .next (s.setFB Framebuffer.cleared)

/-- `00FE` LOW: `hires <- false`, the framebuffer unchanged (R203; decision D9, log entry 18). -/
def execLow (s : State) : Result := .next (s.setHires false)

/-- `00FF` HIGH: `hires <- true`, the framebuffer unchanged (R204; decision D9, log entry 18). -/
def execHigh (s : State) : Result := .next (s.setHires true)

/-- The draw of R205 once its sprite bytes are known to lie in memory: the compositor's framebuffer, and then the
collision flag to `VF` (R211). -/
def State.drawSprite (s : State) (x y : RegIdx) (shape : SpriteShape) : State :=
  let drawn := composite s.FB (s.spriteCells x y shape)
  (s.setFB drawn.1).setReg VF (flagByte drawn.2)

/-- `Dxyn` DRW Vx, Vy, n (R205): `OutOfBounds` with no pixel and no `VF` written when the sprite bytes pass the end of
memory (R212); `len = 0` never fails, since `I ≤ 0x1000` (R32). -/
def execDrw (x y : RegIdx) (n : BitVec 4) (s : State) : Result :=
  s.accessIndexed (spriteShape s.hires n).len fun t => .next (t.drawSprite x y (spriteShape t.hires n))

end Sys2Proof.Machine
end

