-- ==== Sys2Proof/Machine/IndexMemory.lean ====
section
/-! DEFINITION. The index register and the memory transfers (spec/42_index_memory.md). -/

namespace Sys2Proof.Machine

/-- `Annn` LD I, nnn (R170). -/
def execLdI (nnn : Addr12) (s : State) : Result := .next (s.setI (addrWord nnn))

/-- `Fx1E` ADD I, Vx: `IndexOverflow` when the unwrapped sum exceeds `0xFFF` (R171; decision D13, log entry 12). -/
def execAddIVx (x : RegIdx) (s : State) : Result :=
  if s.I.toNat + (s.reg x).toNat > 0xFFF then s.fail .indexOverflow else .next (s.setI (s.I + byteWord (s.reg x)))

/-- `Fx29` LD F, Vx: the address of a small glyph (R172). -/
def execLdFVx (x : RegIdx) (s : State) : Result := .next (s.setI (smallGlyph (s.reg x)))

/-- `Fx30` LD HF, Vx: the address of a large glyph (R173). -/
def execLdHfVx (x : RegIdx) (s : State) : Result := .next (s.setI (largeGlyph (s.reg x)))

/-- `Fx33` LD B, Vx: the decimal digits of `V[x]` at `I`, `I + 1`, `I + 2` (R174). -/
def execLdBVx (x : RegIdx) (s : State) : Result :=
  s.accessIndexed 3 fun t => .next (t.writeBytes t.I.toNat (decimalDigits (t.reg x)))

/-- `Fx55` LD [I], Vx: `V0..Vx` stored at `I`, …, `I + x` (R175). -/
def execLdMemVx (x : RegIdx) (s : State) : Result :=
  s.accessIndexed (blockLen x) fun t => .next ((t.writeBytes t.I.toNat (t.regBlock x)).postIncrement (blockLen x))

/-- `Fx65` LD Vx, [I]: `V0..Vx` loaded from `I`, …, `I + x` (R176). -/
def execLdVxMem (x : RegIdx) (s : State) : Result :=
  s.accessIndexed (blockLen x) fun t =>
    .next ((t.setV (loadRegs t.V 0 (t.readBytes t.I.toNat (blockLen x)))).postIncrement (blockLen x))

end Sys2Proof.Machine
end

