-- ==== Sys2Proof/Machine/InputTimers.lean ====
section
/-! DEFINITION. Key tests, key wait and timers (spec/44_input_timers.md). -/

namespace Sys2Proof.Machine

/-- A key test: refused when the register holds no key number (R232; decision D15, log entry 14), else a skip on the
key's level. -/
def State.keyTest (s : State) (x : RegIdx) (level : Bool) : Result :=
  match keyNumber (s.reg x) with
  | some k => .next (s.skipIf (s.pressed k == level))
  | none => .refused .keyIndexOutOfRange

/-- `Ex9E` SKP Vx: skip if the key is pressed (R230). -/
def execSkp (x : RegIdx) (s : State) : Result := s.keyTest x true

/-- `ExA1` SKNP Vx: skip if the key is not pressed (R231). -/
def execSknp (x : RegIdx) (s : State) : Result := s.keyTest x false

/-- `Fx07` LD Vx, DT (R233). -/
def execLdVxDt (x : RegIdx) (s : State) : Result := .next (s.setReg x s.DT)

/-- `Fx0A` LD Vx, K: the lowest pressed key to `V[x]` (decision D16, log entry 15), or back to the same instruction
when no key is pressed (R234). -/
def execLdVxK (x : RegIdx) (s : State) : Result :=
  match s.lowestPressed with
  | some k => .next (s.setReg x (BitVec.ofNat 8 k))
  | none => .next s.rewind

/-- `Fx15` LD DT, Vx (R235). -/
def execLdDtVx (x : RegIdx) (s : State) : Result := .next (s.setDT (s.reg x))

/-- `Fx18` LD ST, Vx (R236). -/
def execLdStVx (x : RegIdx) (s : State) : Result := .next (s.setST (s.reg x))

end Sys2Proof.Machine
end

