-- ==== Sys2Proof/Machine/Step.lean ====
section
/-! DEFINITION. The step transaction (spec/30_encoding.md R90): fetch, decode, PC advance, dispatch. -/

namespace Sys2Proof.Machine

/-- One step (R90). A fetch past the end of memory fails before the advance (R252); a `BAD` word fails after it, with
the word and the advanced `pc` (R253); else the instruction is executed on the advanced state. -/
def step (s : State) : Host.Outcome State Fault Refusal :=
  match s.fetch with
  | none => s.fail (.badProgramCounter s.pc)
  | some w =>
    match decodeWord w with
    | none => s.advance.fail (.badInstruction w s.advance.pc)
    | some i => exec i s.advance

/-- `s` with the table word `w` of `nbits` bits placed where the next step fetches (log entries 9, 28). -/
def State.withFetchWord (s : State) (nbits w : Nat) : State := s.placeWord nbits w

end Sys2Proof.Machine
end

