-- ==== Sys2Proof/Laws/Decode.lean ====
section
/-! SUPPORT. What the decoder reads back from the words the encoder builds, field by field, and the masks of R81. -/

namespace Sys2Proof

/-- The words of the three formats as numbers. -/
theorem toNat_append_eq {m n : Nat} (a : BitVec m) (b : BitVec n) : (a ++ b).toNat = a.toNat * 2 ^ n + b.toNat := by
  rw [BitVec.toNat_append, ← Nat.shiftLeft_add_eq_or_of_lt b.isLt, Nat.shiftLeft_eq]

theorem toNat_wordNnn (hi : BitVec 4) (nnn : Addr12) : (wordNnn hi nnn).toNat = hi.toNat * 4096 + nnn.toNat :=
  toNat_append_eq hi nnn

theorem toNat_wordXkk (hi x : BitVec 4) (kk : Byte) :
    (wordXkk hi x kk).toNat = hi.toNat * 4096 + x.toNat * 256 + kk.toNat := by
  refine (toNat_append_eq (hi ++ x) kk).trans ?_
  rw [toNat_append_eq]
  omega

theorem toNat_wordXyn (hi x y n : BitVec 4) :
    (wordXyn hi x y n).toNat = hi.toNat * 4096 + x.toNat * 256 + y.toNat * 16 + n.toNat := by
  refine (toNat_append_eq (hi ++ x ++ y) n).trans ?_
  rw [toNat_append_eq, toNat_append_eq]
  omega

/-! The decoder's fields as numbers (R71). -/

theorem toNat_hi (w : Word) : (decodeFields w).hi.toNat = w.toNat / 4096 := by
  have := w.isLt
  simp [decodeFields, BitVec.extractLsb'_toNat, Nat.shiftRight_eq_div_pow]
  omega

theorem toNat_x (w : Word) : (decodeFields w).x.toNat = w.toNat / 256 % 16 := by
  simp [decodeFields, BitVec.extractLsb'_toNat, Nat.shiftRight_eq_div_pow]

theorem toNat_y (w : Word) : (decodeFields w).y.toNat = w.toNat / 16 % 16 := by
  simp [decodeFields, BitVec.extractLsb'_toNat, Nat.shiftRight_eq_div_pow]

theorem toNat_n (w : Word) : (decodeFields w).n.toNat = w.toNat % 16 := by
  simp [decodeFields, BitVec.extractLsb'_toNat]

theorem toNat_kk (w : Word) : (decodeFields w).kk.toNat = w.toNat % 256 := by
  simp [decodeFields, BitVec.extractLsb'_toNat]

theorem toNat_nnn (w : Word) : (decodeFields w).nnn.toNat = w.toNat % 4096 := by
  simp [decodeFields, BitVec.extractLsb'_toNat]

/-! Each field of a format is read back. -/

@[simp] theorem hi_wordNnn (hi : BitVec 4) (nnn : Addr12) : (decodeFields (wordNnn hi nnn)).hi = hi := by
  apply BitVec.eq_of_toNat_eq
  rw [toNat_hi, toNat_wordNnn]
  omega

@[simp] theorem nnn_wordNnn (hi : BitVec 4) (nnn : Addr12) : (decodeFields (wordNnn hi nnn)).nnn = nnn := by
  apply BitVec.eq_of_toNat_eq
  rw [toNat_nnn, toNat_wordNnn]
  omega

@[simp] theorem hi_wordXkk (hi x : BitVec 4) (kk : Byte) : (decodeFields (wordXkk hi x kk)).hi = hi := by
  apply BitVec.eq_of_toNat_eq
  rw [toNat_hi, toNat_wordXkk]
  omega

@[simp] theorem x_wordXkk (hi x : BitVec 4) (kk : Byte) : (decodeFields (wordXkk hi x kk)).x = x := by
  apply BitVec.eq_of_toNat_eq
  rw [toNat_x, toNat_wordXkk]
  omega

@[simp] theorem kk_wordXkk (hi x : BitVec 4) (kk : Byte) : (decodeFields (wordXkk hi x kk)).kk = kk := by
  apply BitVec.eq_of_toNat_eq
  rw [toNat_kk, toNat_wordXkk]
  omega

@[simp] theorem hi_wordXyn (hi x y n : BitVec 4) : (decodeFields (wordXyn hi x y n)).hi = hi := by
  apply BitVec.eq_of_toNat_eq
  rw [toNat_hi, toNat_wordXyn]
  omega

@[simp] theorem x_wordXyn (hi x y n : BitVec 4) : (decodeFields (wordXyn hi x y n)).x = x := by
  apply BitVec.eq_of_toNat_eq
  rw [toNat_x, toNat_wordXyn]
  omega

@[simp] theorem y_wordXyn (hi x y n : BitVec 4) : (decodeFields (wordXyn hi x y n)).y = y := by
  apply BitVec.eq_of_toNat_eq
  rw [toNat_y, toNat_wordXyn]
  omega

@[simp] theorem n_wordXyn (hi x y n : BitVec 4) : (decodeFields (wordXyn hi x y n)).n = n := by
  apply BitVec.eq_of_toNat_eq
  rw [toNat_n, toNat_wordXyn]
  omega

@[simp] theorem x_wordNnn (hi : BitVec 4) (nnn : Addr12) :
    (decodeFields (wordNnn hi nnn)).x = nnn.extractLsb' 8 4 := by
  apply BitVec.eq_of_toNat_eq
  rw [toNat_x, toNat_wordNnn, BitVec.extractLsb'_toNat, Nat.shiftRight_eq_div_pow]
  omega

/-! The masks of R81 keep the fixed digits and clear the operand fields. -/

theorem wordNnn_and_F000 (hi : BitVec 4) (nnn : Addr12) : wordNnn hi nnn &&& 0xF000 = wordNnn hi 0 := by
  have h : (0xF000 : Word) = 15#4 ++ 0#12 := by decide
  have hone : hi &&& 15#4 = hi := by simpa using BitVec.and_allOnes (x := hi)
  unfold wordNnn
  rw [h, BitVec.and_append, hone]
  simp

theorem wordXkk_and_F000 (hi x : BitVec 4) (kk : Byte) : wordXkk hi x kk &&& 0xF000 = wordXkk hi 0 0 := by
  have h : (0xF000 : Word) = 15#4 ++ 0#4 ++ 0#8 := by decide
  have hone : hi &&& 15#4 = hi := by simpa using BitVec.and_allOnes (x := hi)
  unfold wordXkk
  rw [h, BitVec.and_append, BitVec.and_append, hone]
  simp

theorem wordXkk_and_F0FF (hi x : BitVec 4) (kk : Byte) : wordXkk hi x kk &&& 0xF0FF = wordXkk hi 0 kk := by
  have h : (0xF0FF : Word) = 15#4 ++ 0#4 ++ 255#8 := by decide
  have hone : hi &&& 15#4 = hi := by simpa using BitVec.and_allOnes (x := hi)
  have hkk : kk &&& 255#8 = kk := by simpa using BitVec.and_allOnes (x := kk)
  unfold wordXkk
  rw [h, BitVec.and_append, BitVec.and_append, hone, hkk]
  simp

theorem wordXyn_and_F00F (hi x y n : BitVec 4) : wordXyn hi x y n &&& 0xF00F = wordXyn hi 0 0 n := by
  have h : (0xF00F : Word) = 15#4 ++ 0#4 ++ 0#4 ++ 15#4 := by decide
  have hone : ∀ v : BitVec 4, v &&& 15#4 = v := fun v => by simpa using BitVec.and_allOnes (x := v)
  unfold wordXyn
  rw [h, BitVec.and_append, BitVec.and_append, BitVec.and_append, hone, hone]
  simp

theorem wordXyn_and_F000 (hi x y n : BitVec 4) : wordXyn hi x y n &&& 0xF000 = wordXyn hi 0 0 0 := by
  have h : (0xF000 : Word) = 15#4 ++ 0#4 ++ 0#4 ++ 0#4 := by decide
  have hone : hi &&& 15#4 = hi := by simpa using BitVec.and_allOnes (x := hi)
  unfold wordXyn
  rw [h, BitVec.and_append, BitVec.and_append, BitVec.and_append, hone]
  simp

end Sys2Proof
end

