-- ==== Sys2Proof/Laws/PerInstr.lean ====
section
/-! SUPPORT. The family TablePattern: the word of every instruction is a word of its own row of the opcode map
(spec/30_encoding.md R81), one lemma a constructor. -/

/-- The encoding of `i` is a word of the row of R81 that has the mnemonic of `i`. -/
def Sys2Proof.Laws.TablePattern.Statement (i : Sys2Proof.Instr) : Prop :=
  ∃ row ∈ Sys2Proof.opcodeTable, row.mnemonic = i.mnemonic ∧ row.Matches (Sys2Proof.encode i)

theorem Sys2Proof.Laws.TablePattern.cls :
    Sys2Proof.Laws.TablePattern.Statement .cls :=
  ⟨⟨"CLS", 0x00E0, 0xFFFF⟩, by decide, rfl, by decide⟩

theorem Sys2Proof.Laws.TablePattern.ret :
    Sys2Proof.Laws.TablePattern.Statement .ret :=
  ⟨⟨"RET", 0x00EE, 0xFFFF⟩, by decide, rfl, by decide⟩

theorem Sys2Proof.Laws.TablePattern.low :
    Sys2Proof.Laws.TablePattern.Statement .low :=
  ⟨⟨"LOW", 0x00FE, 0xFFFF⟩, by decide, rfl, by decide⟩

theorem Sys2Proof.Laws.TablePattern.high :
    Sys2Proof.Laws.TablePattern.Statement .high :=
  ⟨⟨"HIGH", 0x00FF, 0xFFFF⟩, by decide, rfl, by decide⟩

theorem Sys2Proof.Laws.TablePattern.jp (nnn : Sys2Proof.Addr12) :
    Sys2Proof.Laws.TablePattern.Statement (.jp nnn) :=
  ⟨⟨"JP_nnn", 0x1000, 0xF000⟩, by decide, rfl, (Sys2Proof.wordNnn_and_F000 _ _).trans (by decide)⟩

theorem Sys2Proof.Laws.TablePattern.call (nnn : Sys2Proof.Addr12) :
    Sys2Proof.Laws.TablePattern.Statement (.call nnn) :=
  ⟨⟨"CALL_nnn", 0x2000, 0xF000⟩, by decide, rfl, (Sys2Proof.wordNnn_and_F000 _ _).trans (by decide)⟩

theorem Sys2Proof.Laws.TablePattern.seImm (x : Sys2Proof.RegIdx) (kk : Sys2Proof.Byte) :
    Sys2Proof.Laws.TablePattern.Statement (.seImm x kk) :=
  ⟨⟨"SE_Vx__kk", 0x3000, 0xF000⟩, by decide, rfl, (Sys2Proof.wordXkk_and_F000 _ _ _).trans (by decide)⟩

theorem Sys2Proof.Laws.TablePattern.sneImm (x : Sys2Proof.RegIdx) (kk : Sys2Proof.Byte) :
    Sys2Proof.Laws.TablePattern.Statement (.sneImm x kk) :=
  ⟨⟨"SNE_Vx__kk", 0x4000, 0xF000⟩, by decide, rfl, (Sys2Proof.wordXkk_and_F000 _ _ _).trans (by decide)⟩

theorem Sys2Proof.Laws.TablePattern.seReg (x y : Sys2Proof.RegIdx) :
    Sys2Proof.Laws.TablePattern.Statement (.seReg x y) :=
  ⟨⟨"SE_Vx__Vy", 0x5000, 0xF00F⟩, by decide, rfl, (Sys2Proof.wordXyn_and_F00F _ _ _ _).trans (by decide)⟩

theorem Sys2Proof.Laws.TablePattern.ldImm (x : Sys2Proof.RegIdx) (kk : Sys2Proof.Byte) :
    Sys2Proof.Laws.TablePattern.Statement (.ldImm x kk) :=
  ⟨⟨"LD_Vx__kk", 0x6000, 0xF000⟩, by decide, rfl, (Sys2Proof.wordXkk_and_F000 _ _ _).trans (by decide)⟩

theorem Sys2Proof.Laws.TablePattern.addImm (x : Sys2Proof.RegIdx) (kk : Sys2Proof.Byte) :
    Sys2Proof.Laws.TablePattern.Statement (.addImm x kk) :=
  ⟨⟨"ADD_Vx__kk", 0x7000, 0xF000⟩, by decide, rfl, (Sys2Proof.wordXkk_and_F000 _ _ _).trans (by decide)⟩

theorem Sys2Proof.Laws.TablePattern.ldReg (x y : Sys2Proof.RegIdx) :
    Sys2Proof.Laws.TablePattern.Statement (.ldReg x y) :=
  ⟨⟨"LD_Vx__Vy", 0x8000, 0xF00F⟩, by decide, rfl, (Sys2Proof.wordXyn_and_F00F _ _ _ _).trans (by decide)⟩

theorem Sys2Proof.Laws.TablePattern.orReg (x y : Sys2Proof.RegIdx) :
    Sys2Proof.Laws.TablePattern.Statement (.orReg x y) :=
  ⟨⟨"OR_Vx__Vy", 0x8001, 0xF00F⟩, by decide, rfl, (Sys2Proof.wordXyn_and_F00F _ _ _ _).trans (by decide)⟩

theorem Sys2Proof.Laws.TablePattern.andReg (x y : Sys2Proof.RegIdx) :
    Sys2Proof.Laws.TablePattern.Statement (.andReg x y) :=
  ⟨⟨"AND_Vx__Vy", 0x8002, 0xF00F⟩, by decide, rfl, (Sys2Proof.wordXyn_and_F00F _ _ _ _).trans (by decide)⟩

theorem Sys2Proof.Laws.TablePattern.xorReg (x y : Sys2Proof.RegIdx) :
    Sys2Proof.Laws.TablePattern.Statement (.xorReg x y) :=
  ⟨⟨"XOR_Vx__Vy", 0x8003, 0xF00F⟩, by decide, rfl, (Sys2Proof.wordXyn_and_F00F _ _ _ _).trans (by decide)⟩

theorem Sys2Proof.Laws.TablePattern.addReg (x y : Sys2Proof.RegIdx) :
    Sys2Proof.Laws.TablePattern.Statement (.addReg x y) :=
  ⟨⟨"ADD_Vx__Vy", 0x8004, 0xF00F⟩, by decide, rfl, (Sys2Proof.wordXyn_and_F00F _ _ _ _).trans (by decide)⟩

theorem Sys2Proof.Laws.TablePattern.subReg (x y : Sys2Proof.RegIdx) :
    Sys2Proof.Laws.TablePattern.Statement (.subReg x y) :=
  ⟨⟨"SUB_Vx__Vy", 0x8005, 0xF00F⟩, by decide, rfl, (Sys2Proof.wordXyn_and_F00F _ _ _ _).trans (by decide)⟩

theorem Sys2Proof.Laws.TablePattern.shrReg (x y : Sys2Proof.RegIdx) :
    Sys2Proof.Laws.TablePattern.Statement (.shrReg x y) :=
  ⟨⟨"SHR_Vx", 0x8006, 0xF00F⟩, by decide, rfl, (Sys2Proof.wordXyn_and_F00F _ _ _ _).trans (by decide)⟩

theorem Sys2Proof.Laws.TablePattern.subnReg (x y : Sys2Proof.RegIdx) :
    Sys2Proof.Laws.TablePattern.Statement (.subnReg x y) :=
  ⟨⟨"SUBN_Vx__Vy", 0x8007, 0xF00F⟩, by decide, rfl, (Sys2Proof.wordXyn_and_F00F _ _ _ _).trans (by decide)⟩

theorem Sys2Proof.Laws.TablePattern.shlReg (x y : Sys2Proof.RegIdx) :
    Sys2Proof.Laws.TablePattern.Statement (.shlReg x y) :=
  ⟨⟨"SHL_Vx", 0x800E, 0xF00F⟩, by decide, rfl, (Sys2Proof.wordXyn_and_F00F _ _ _ _).trans (by decide)⟩

theorem Sys2Proof.Laws.TablePattern.sneReg (x y : Sys2Proof.RegIdx) :
    Sys2Proof.Laws.TablePattern.Statement (.sneReg x y) :=
  ⟨⟨"SNE_Vx__Vy", 0x9000, 0xF00F⟩, by decide, rfl, (Sys2Proof.wordXyn_and_F00F _ _ _ _).trans (by decide)⟩

theorem Sys2Proof.Laws.TablePattern.ldI (nnn : Sys2Proof.Addr12) :
    Sys2Proof.Laws.TablePattern.Statement (.ldI nnn) :=
  ⟨⟨"LD_I__nnn", 0xA000, 0xF000⟩, by decide, rfl, (Sys2Proof.wordNnn_and_F000 _ _).trans (by decide)⟩

theorem Sys2Proof.Laws.TablePattern.jpOff (x : Sys2Proof.RegIdx) (nnn : Sys2Proof.Addr12) :
    Sys2Proof.Laws.TablePattern.Statement (.jpOff x nnn) :=
  ⟨⟨"JP_Vx__nnn", 0xB000, 0xF000⟩, by decide, rfl, (Sys2Proof.wordNnn_and_F000 _ _).trans (by decide)⟩

theorem Sys2Proof.Laws.TablePattern.rnd (x : Sys2Proof.RegIdx) (kk : Sys2Proof.Byte) :
    Sys2Proof.Laws.TablePattern.Statement (.rnd x kk) :=
  ⟨⟨"RND_Vx__kk", 0xC000, 0xF000⟩, by decide, rfl, (Sys2Proof.wordXkk_and_F000 _ _ _).trans (by decide)⟩

theorem Sys2Proof.Laws.TablePattern.drw (x y : Sys2Proof.RegIdx) (n : BitVec 4) :
    Sys2Proof.Laws.TablePattern.Statement (.drw x y n) :=
  ⟨⟨"DRW_Vx__Vy__n", 0xD000, 0xF000⟩, by decide, rfl, (Sys2Proof.wordXyn_and_F000 _ _ _ _).trans (by decide)⟩

theorem Sys2Proof.Laws.TablePattern.skp (x : Sys2Proof.RegIdx) :
    Sys2Proof.Laws.TablePattern.Statement (.skp x) :=
  ⟨⟨"SKP_Vx", 0xE09E, 0xF0FF⟩, by decide, rfl, (Sys2Proof.wordXkk_and_F0FF _ _ _).trans (by decide)⟩

theorem Sys2Proof.Laws.TablePattern.sknp (x : Sys2Proof.RegIdx) :
    Sys2Proof.Laws.TablePattern.Statement (.sknp x) :=
  ⟨⟨"SKNP_Vx", 0xE0A1, 0xF0FF⟩, by decide, rfl, (Sys2Proof.wordXkk_and_F0FF _ _ _).trans (by decide)⟩

theorem Sys2Proof.Laws.TablePattern.ldVxDt (x : Sys2Proof.RegIdx) :
    Sys2Proof.Laws.TablePattern.Statement (.ldVxDt x) :=
  ⟨⟨"LD_Vx__DT", 0xF007, 0xF0FF⟩, by decide, rfl, (Sys2Proof.wordXkk_and_F0FF _ _ _).trans (by decide)⟩

theorem Sys2Proof.Laws.TablePattern.ldVxK (x : Sys2Proof.RegIdx) :
    Sys2Proof.Laws.TablePattern.Statement (.ldVxK x) :=
  ⟨⟨"LD_Vx__K", 0xF00A, 0xF0FF⟩, by decide, rfl, (Sys2Proof.wordXkk_and_F0FF _ _ _).trans (by decide)⟩

theorem Sys2Proof.Laws.TablePattern.ldDtVx (x : Sys2Proof.RegIdx) :
    Sys2Proof.Laws.TablePattern.Statement (.ldDtVx x) :=
  ⟨⟨"LD_DT__Vx", 0xF015, 0xF0FF⟩, by decide, rfl, (Sys2Proof.wordXkk_and_F0FF _ _ _).trans (by decide)⟩

theorem Sys2Proof.Laws.TablePattern.ldStVx (x : Sys2Proof.RegIdx) :
    Sys2Proof.Laws.TablePattern.Statement (.ldStVx x) :=
  ⟨⟨"LD_ST__Vx", 0xF018, 0xF0FF⟩, by decide, rfl, (Sys2Proof.wordXkk_and_F0FF _ _ _).trans (by decide)⟩

theorem Sys2Proof.Laws.TablePattern.addIVx (x : Sys2Proof.RegIdx) :
    Sys2Proof.Laws.TablePattern.Statement (.addIVx x) :=
  ⟨⟨"ADD_I__Vx", 0xF01E, 0xF0FF⟩, by decide, rfl, (Sys2Proof.wordXkk_and_F0FF _ _ _).trans (by decide)⟩

theorem Sys2Proof.Laws.TablePattern.ldFVx (x : Sys2Proof.RegIdx) :
    Sys2Proof.Laws.TablePattern.Statement (.ldFVx x) :=
  ⟨⟨"LD_F__Vx", 0xF029, 0xF0FF⟩, by decide, rfl, (Sys2Proof.wordXkk_and_F0FF _ _ _).trans (by decide)⟩

theorem Sys2Proof.Laws.TablePattern.ldHfVx (x : Sys2Proof.RegIdx) :
    Sys2Proof.Laws.TablePattern.Statement (.ldHfVx x) :=
  ⟨⟨"LD_HF__Vx", 0xF030, 0xF0FF⟩, by decide, rfl, (Sys2Proof.wordXkk_and_F0FF _ _ _).trans (by decide)⟩

theorem Sys2Proof.Laws.TablePattern.ldBVx (x : Sys2Proof.RegIdx) :
    Sys2Proof.Laws.TablePattern.Statement (.ldBVx x) :=
  ⟨⟨"LD_B__Vx", 0xF033, 0xF0FF⟩, by decide, rfl, (Sys2Proof.wordXkk_and_F0FF _ _ _).trans (by decide)⟩

theorem Sys2Proof.Laws.TablePattern.ldMemVx (x : Sys2Proof.RegIdx) :
    Sys2Proof.Laws.TablePattern.Statement (.ldMemVx x) :=
  ⟨⟨"LD__I___Vx", 0xF055, 0xF0FF⟩, by decide, rfl, (Sys2Proof.wordXkk_and_F0FF _ _ _).trans (by decide)⟩

theorem Sys2Proof.Laws.TablePattern.ldVxMem (x : Sys2Proof.RegIdx) :
    Sys2Proof.Laws.TablePattern.Statement (.ldVxMem x) :=
  ⟨⟨"LD_Vx___I", 0xF065, 0xF0FF⟩, by decide, rfl, (Sys2Proof.wordXkk_and_F0FF _ _ _).trans (by decide)⟩
end

