-- ==== Sys2Proof/Machine/HostOps.lean ====
section
/-! DEFINITION. The host's operations (spec/60_exceptions.md R263 to R268; spec/70_reset_and_hazards.md R280 to R284)
and a host's schedule of them. Each is atomic and runs between two steps (R60, R264). -/

namespace Sys2Proof.Machine

/-- `construct(program, quirks)`: `ProgramTooLarge` for more than 3584 bytes and no engine is created, else the state
of R282 and R283 with the program's bytes from `0x200` (R281, R284). The parameters are all of R8's. -/
def construct (program : List Byte) (params : Params) : Result :=
  if program.length > Config.maxProg then .fault (.programTooLarge program.length)
  else .next ((State.fresh params).writeBytes Config.progBase program)

/-- A timer lowered by exactly 1 with a floor of 0 (R266). -/
def timerTick (t : Byte) : Byte := if t.toNat > 0 then t - 1 else t

/-- `decrement_timer()`: both timers (R266; decision D17, log entry 16). -/
def State.decrementTimer (s : State) : State := { s with DT := timerTick s.DT, ST := timerTick s.ST }

/-- `key[k] <- level` for a key of the latch; a refusal above 15 (R267; decision D27, log entry 14). -/
def State.writeKey (s : State) (k : Nat) (level : Bool) : Result :=
  if h : k < 16 then .next { s with key := s.key.set k level } else .refused .hostKeyIndexOutOfRange

/-- `set_key(k)` (R267). -/
def State.setKey (s : State) (k : Nat) : Result := s.writeKey k true

/-- `clear_key(k)` (R267). -/
def State.clearKey (s : State) (k : Nat) : Result := s.writeKey k false

/-- The read-only view that `read_framebuffer()` returns: the whole storage and the resolution mode (R268). -/
structure FramebufferView where
  cells : Framebuffer
  hires : Bool
  deriving DecidableEq, Repr

/-- `read_framebuffer()` (R268). -/
def State.readFramebuffer (s : State) : FramebufferView := ⟨s.FB, s.hires⟩

/-- The presented picture of a view: its active window of `W × H` cells (R268, R201), `none` outside it. -/
def FramebufferView.pixel (v : FramebufferView) (c r : Nat) : Option Bool :=
  if c < (if v.hires then 128 else 64) ∧ r < (if v.hires then 64 else 32) then some (Framebuffer.lit v.cells c r)
  else none

/-- A call of the host on a running engine (R265). -/
inductive HostCall where
  | step
  | decrementTimer
  | setKey (k : Nat)
  | clearKey (k : Nat)
  | readFramebuffer
  deriving DecidableEq, Repr

/-- The effect of a call on the engine (R265); `read_framebuffer` changes nothing. -/
def State.perform (s : State) (call : HostCall) : Result :=
  match call with
  | .step => Sys2Proof.Machine.step s
  | .decrementTimer => .next s.decrementTimer
  | .setKey k => s.setKey k
  | .clearKey k => s.clearKey k
  | .readFramebuffer => .next s

/-- A host's schedule: its calls in order, any number of each (R264, R289). A failure of a step does not end it (R250);
a refusal does (R262). -/
def State.runSchedule (s : State) (calls : List HostCall) : Result :=
  match calls with
  | [] => .next s
  | call :: rest =>
    match s.perform call with
    | .next t => t.runSchedule rest
    | .fault f => .fault f
    | .refused r => .refused r

end Sys2Proof.Machine
end

