-- ==== Sys2Proof/Safety.lean ====
section
/-! DEFINITION. The terms that claims about runs use: the machine's invariant, from the bounds the spec derives, and
the success of a step. -/

namespace Sys2Proof.Machine

/-- The invariant of every reachable state: memory in its canonical form (R50), at most 16 return addresses (R33), each
at most `0x1000` (R102, R104), `I` in `0x000..0x1000` (R32), `pc` at most `0x10FE` (R28). -/
abbrev State.Inv (s : State) : Prop :=
  Memory.wf s.params s.mem ∧ s.stack.length ≤ Config.stackDepth ∧ (∀ v ∈ s.stack, v.toNat ≤ 0x1000) ∧
    s.I.toNat ≤ 0x1000 ∧ s.pc.toNat ≤ 0x10FE

/-- The latest step succeeded: it returned no failure (R93). -/
abbrev State.Succeeded (s : State) : Prop := s.report = none

/-- `s` steps to `t` with success: a claim about a run of successful steps uses this, since a failed step is a next
state too (R250; log entry 1). -/
def StepsTo (s t : State) : Prop := step s = .next t ∧ t.Succeeded

/-- A refused run proves nothing (R262): the step of `s` is refused. -/
def StepRefused (s : State) : Prop := ∃ r, step s = .refused r

/-- A cell that a set bit of the sprite lands on: the bit at `row`, `col` of the sprite at `I`, at the origin
`(V[x] mod W, V[y] mod H)`, wrapped modulo the active dimensions (R205, R208, R209). -/
def State.SpriteCovers (s : State) (x y : RegIdx) (n : BitVec 4) (c r : Nat) : Prop :=
  ∃ row col, row < (spriteShape s.hires n).rows ∧ col < (spriteShape s.hires n).width ∧
    s.spriteBit (spriteShape s.hires n) row col = true ∧
    c = ((s.reg x).toNat % s.activeWidth + col) % s.activeWidth ∧
    r = ((s.reg y).toNat % s.activeHeight + row) % s.activeHeight

/-- The write column of R22's table: the general registers an instruction may write, given `vf_reset_quirk`. -/
def Instr.mayWriteReg (i : Instr) (vfReset : Bool) (r : RegIdx) : Prop :=
  match i with
  | .ldImm x _ | .addImm x _ | .ldReg x _ | .rnd x _ | .ldVxDt x | .ldVxK x => r = x
  | .orReg x _ | .andReg x _ | .xorReg x _ => r = x ∨ (vfReset = true ∧ r = VF)
  | .addReg x _ | .subReg x _ | .subnReg x _ | .shrReg x _ | .shlReg x _ => r = x ∨ r = VF
  | .drw _ _ _ => r = VF
  | .ldVxMem x => r.toNat ≤ x.toNat
  | .cls | .ret | .low | .high | .jp _ | .call _ | .seImm _ _ | .sneImm _ _ | .seReg _ _ | .sneReg _ _ | .ldI _
  | .jpOff _ _ | .skp _ | .sknp _ | .ldDtVx _ | .ldStVx _ | .addIVx _ | .ldFVx _ | .ldHfVx _ | .ldBVx _
  | .ldMemVx _ => False

end Sys2Proof.Machine
end

