-- ==== Sys2Proof/Certificates/Slice0/Obligations.lean ====
section
/-! DEFINITION. The statements for the provers. Each docstring names what the statement formalises; where a clause
rests on a decision of the spec (D<n>) or a choice of the model (log entry <n>), it says so. A failure of a step, R93's
`Fail(kind, info, s')`, is written as the next state `s'` with `report := some kind`: that form is the model's choice
(entry 1), and every statement with `report` in it rests on it. -/

open Sys2Proof Sys2Proof.Machine

/-! ## Encoding -/

/-- Sanity: words written out from the patterns of R81 (spec/30_encoding.md section 4, spec/95_test_vectors.md 2.1 and
2.2) decode to the instructions they stand for, and `BAD` words to none. -/
def Obligations.SampleWordsDecode : Prop :=
  decodeWord 0x00E0 = some .cls ∧ decodeWord 0x00EE = some .ret ∧ decodeWord 0x1ABC = some (.jp 0xABC) ∧
    decodeWord 0x3342 = some (.seImm 3 0x42) ∧ decodeWord 0x5120 = some (.seReg 1 2) ∧
    decodeWord 0x6A3E = some (.ldImm 0xA 0x3E) ∧ decodeWord 0x8AB6 = some (.shrReg 0xA 0xB) ∧
    decodeWord 0x8127 = some (.subnReg 1 2) ∧ decodeWord 0xA300 = some (.ldI 0x300) ∧
    decodeWord 0xB20A = some (.jpOff 2 0x20A) ∧ decodeWord 0xC309 = some (.rnd 3 0x09) ∧
    decodeWord 0xD12F = some (.drw 1 2 0xF) ∧ decodeWord 0xE39E = some (.skp 3) ∧ decodeWord 0xF255 = some (.ldMemVx 2) ∧
    decodeWord 0x0123 = none ∧ decodeWord 0x5121 = none ∧ decodeWord 0x800F = none ∧ decodeWord 0xF075 = none

/-- R71: each field of the decoder is a fixed bit range of the word, read as an unsigned number, and the fields overlap
as `kk = y ++ n` and `nnn = x ++ y ++ n`. -/
def Obligations.FieldsAreTheBitRanges : Prop :=
  ∀ w : Word, (decodeFields w).hi.toNat = w.toNat / 2 ^ 12 ∧ (decodeFields w).x.toNat = w.toNat / 2 ^ 8 % 2 ^ 4 ∧
    (decodeFields w).y.toNat = w.toNat / 2 ^ 4 % 2 ^ 4 ∧ (decodeFields w).n.toNat = w.toNat % 2 ^ 4 ∧
    (decodeFields w).kk.toNat = w.toNat % 2 ^ 8 ∧ (decodeFields w).nnn.toNat = w.toNat % 2 ^ 12 ∧
    (decodeFields w).kk = (decodeFields w).y ++ (decodeFields w).n ∧
    (decodeFields w).nnn = (decodeFields w).x ++ (decodeFields w).y ++ (decodeFields w).n

/-- Decoding an encoded well-formed instruction gives it back, for every instruction and every operand value. -/
def Obligations.DecodeInvertsEncode : Prop :=
  ∀ i : Instr, i.WellFormed → decodeWord (encode i) = some i

/-- Every word that decodes is the encoding of its instruction, which is well formed: no bit of a word is dropped. -/
def Obligations.EncodeInvertsDecode : Prop :=
  ∀ (w : Word) (i : Instr), decodeWord w = some i → i.WellFormed ∧ encode i = w

/-- The multiplexer follows the opcode map (R81) literally: a word decodes to an instruction exactly when it matches
that instruction's row, and a word that matches no row is `BAD` (R78; literal matching is the spec's D11, entry 22). -/
def Obligations.DecodeFollowsOpcodeTable : Prop :=
  (∀ (w : Word) (i : Instr), decodeWord w = some i →
      ∃ row ∈ opcodeTable, row.mnemonic = i.mnemonic ∧ row.Matches w) ∧
    ∀ (w : Word), ∀ row ∈ opcodeTable, row.Matches w → ∃ i, decodeWord w = some i ∧ i.mnemonic = row.mnemonic

/-- The word of every instruction, well formed or not, is a word of its own row of R81. -/
def Obligations.EveryEncodingHasItsRow : Prop :=
  ∀ i : Instr, Sys2Proof.Laws.TablePattern.Statement i

/-! ## The step transaction -/

/-- R54, R90: the step fetches big-endian from `pc` and `pc + 1`, whatever the parity of `pc`; when that word is an
instruction, the step is its execution on the state with `pc` advanced by 2 and nothing reported (`report` is the
model's own field, entry 1). -/
def Obligations.StepRunsDecodedInstruction : Prop :=
  ∀ (s : State) (i : Instr), s.pc.toNat ≤ 0xFFE →
    decodeWord (s.readByte s.pc.toNat ++ s.readByte (s.pc.toNat + 1)) = some i →
      step s = exec i { s with pc := s.pc + 2, report := none }

/-- A `BAD` word fails with the word and the advanced `pc`, and leaves the state as after the advance (R253; the payload
is the spec's D18, entry 17; the next state with a report is entry 1). -/
def Obligations.StepFailsOnBadWord : Prop :=
  ∀ s : State, s.pc.toNat ≤ 0xFFE →
    decodeWord (s.readByte s.pc.toNat ++ s.readByte (s.pc.toNat + 1)) = none →
      step s =
        .next { s with
          pc := s.pc + 2
          report := some (.badInstruction (s.readByte s.pc.toNat ++ s.readByte (s.pc.toNat + 1)) (s.pc + 2)) }

/-- A fetch from `pc > 0xFFE` fails before the advance and leaves the state, so it fails again on every later step
(R252; the spec's D19, entry 17; the report is entry 1). -/
def Obligations.StepFailsPastMemory : Prop :=
  ∀ s : State, 0xFFE < s.pc.toNat →
    step s = .next { s with report := some (.badProgramCounter s.pc) } ∧
      step { s with report := some (.badProgramCounter s.pc) } =
        .next { s with report := some (.badProgramCounter s.pc) }

/-- Failures are precise: a step that reports a failure changed nothing but the report (a fetch failure, from a `pc` past
memory) or nothing but the report and the advanced `pc` (R259; no partial effect is the spec's D28, entry 21; the
report is entry 1). -/
def Obligations.FailuresArePrecise : Prop :=
  ∀ (s t : State) (f : Failure), step s = .next t → t.report = some f →
    (0xFFE < s.pc.toNat ∧ f = .badProgramCounter s.pc ∧ t = { s with report := some f }) ∨
      (s.pc.toNat ≤ 0xFFE ∧ (∀ a, f ≠ .badProgramCounter a) ∧ t = { s with pc := s.pc + 2, report := some f })

/-- R91: the PC advance precedes every effect of dispatch, for the step as a whole: `2nnn` pushes the fetch address + 2, a
taken skip leaves the fetch address + 4, `Fx0A` with no key leaves the fetch address, and a jump's target is not
advanced again (that nothing is reported then, `report := none`, is the model's own field, entry 1). -/
def Obligations.StepObservesAdvancedCounter : Prop :=
  ∀ (s : State) (x y : RegIdx) (kk : Byte) (nnn : Addr12),
    (s.fetch.bind decodeWord = some (.call nnn) → s.stack.length < 16 →
        step s =
          .next { s with stack := (s.pc + 2) :: s.stack, pc := BitVec.ofNat 16 nnn.toNat, report := none }) ∧
      (s.fetch.bind decodeWord = some (.seImm x kk) → s.reg x = kk →
        step s = .next { s with pc := s.pc + 4, report := none }) ∧
      (s.fetch.bind decodeWord = some (.sneImm x kk) → s.reg x ≠ kk →
        step s = .next { s with pc := s.pc + 4, report := none }) ∧
      (s.fetch.bind decodeWord = some (.seReg x y) → s.reg x = s.reg y →
        step s = .next { s with pc := s.pc + 4, report := none }) ∧
      (s.fetch.bind decodeWord = some (.sneReg x y) → s.reg x ≠ s.reg y →
        step s = .next { s with pc := s.pc + 4, report := none }) ∧
      (∀ h : (s.reg x).toNat < 16,
        (s.fetch.bind decodeWord = some (.skp x) → s.key[(s.reg x).toNat] = true →
            step s = .next { s with pc := s.pc + 4, report := none }) ∧
          (s.fetch.bind decodeWord = some (.sknp x) → s.key[(s.reg x).toNat] = false →
            step s = .next { s with pc := s.pc + 4, report := none })) ∧
      (s.fetch.bind decodeWord = some (.ldVxK x) → (∀ k : Fin 16, s.key[k] = false) →
        step s = .next { s with report := none }) ∧
      (s.fetch.bind decodeWord = some (.jp nnn) →
        step s = .next { s with pc := BitVec.ofNat 16 nnn.toNat, report := none })

/-- The engine survives every step (R250): a step answers a next state, but for the one refusal of R262, a key test
whose register is above `0F`. No step faults (that a failed step is a next state is entry 1). -/
def Obligations.EngineSurvivesEveryStep : Prop :=
  ∀ s : State,
    (∃ t, step s = .next t) ∨
      (step s = .refused .keyIndexOutOfRange ∧
        ∃ x, 15 < (s.reg x).toNat ∧
          (s.fetch.bind decodeWord = some (.skp x) ∨ s.fetch.bind decodeWord = some (.sknp x)))

/-- The model's own field `report` is an output only: no step reads it (entry 1; R40 names the state that persists). -/
def Obligations.ReportIsNeverRead : Prop :=
  ∀ (s : State) (r : Option Failure), step { s with report := r } = step s

/-! ## Invariants and whole-machine rules -/

/-- The state after reset meets the invariant. Its zero `I` and empty stack are the spec's D3 (entry 7); what reset is
constructed with is entries 3 to 5 and 9. -/
def Obligations.ResetMeetsInvariant : Prop :=
  State.reset.Inv

/-- Every constructed engine meets the invariant, whatever the program and the parameters. The bounds on `I` and the
stack rest on the zero `I` and the empty stack of the spec's D3 (entry 7). -/
def Obligations.ConstructMeetsInvariant : Prop :=
  ∀ (program : List Byte) (params : Params) (s : State), construct program params = .next s → s.Inv

/-- Every step keeps the invariant: canonical memory, at most 16 return addresses each at most `0x1000`, `I` in
`0x000..0x1000` (R32) and `pc` at most `0x10FE` (R28). -/
def Obligations.StepKeepsInvariant : Prop :=
  ∀ s t : State, s.Inv → step s = .next t → t.Inv

/-- Every schedule of steps and host operations, in any order, keeps the invariant (R264, R289). -/
def Obligations.HostScheduleKeepsInvariant : Prop :=
  ∀ (calls : List HostCall) (s t : State), s.Inv → s.runSchedule calls = .next t → t.Inv

/-- R41: the configuration is fixed at construction and never mutated afterward, by a step or by any schedule of the
host; and a step only reads the key latch. -/
def Obligations.ConfigurationNeverChanges : Prop :=
  (∀ (calls : List HostCall) (s t : State), s.runSchedule calls = .next t → t.params = s.params) ∧
    ∀ s t : State, step s = .next t → t.params = s.params ∧ t.key = s.key

/-- The whole-machine frame: each piece of state changes only under the instructions that the spec lets write it: the
stack (R33), `hires` (R38), the framebuffer (R37), memory (R51), the timers (R34, R35), `I` (R31), the draw counter
(R94); the key latch and the configuration under none. -/
def Obligations.OnlyNamedInstructionsWriteState : Prop :=
  ∀ (i : Instr) (s t : State), exec i s = .next t →
    (t.stack ≠ s.stack → i = .ret ∨ ∃ nnn, i = .call nnn) ∧
      (t.hires ≠ s.hires → i = .low ∨ i = .high) ∧
      (t.FB ≠ s.FB → i = .cls ∨ ∃ x y n, i = .drw x y n) ∧
      (t.mem ≠ s.mem → ∃ x, i = .ldBVx x ∨ i = .ldMemVx x) ∧
      (t.DT ≠ s.DT → ∃ x, i = .ldDtVx x) ∧ (t.ST ≠ s.ST → ∃ x, i = .ldStVx x) ∧
      (t.I ≠ s.I →
        (∃ nnn, i = .ldI nnn) ∨
          ∃ x, i = .addIVx x ∨ i = .ldFVx x ∨ i = .ldHfVx x ∨
            (s.params.jumpingQuirk = true ∧ (i = .ldMemVx x ∨ i = .ldVxMem x))) ∧
      (t.draws ≠ s.draws → ∃ x kk, i = .rnd x kk) ∧ t.key = s.key ∧ t.params = s.params

/-- The write column of R22's table: an instruction changes no general register but those the table lists for it. -/
def Obligations.RegisterWritesFollowTheTable : Prop :=
  ∀ (i : Instr) (s t : State) (r : RegIdx), exec i s = .next t → t.reg r ≠ s.reg r →
    Instr.mayWriteReg i s.params.vfResetQuirk r

/-! ## Control flow -/

/-- R103: `1nnn` sets `pc` to the zero-extended address and changes nothing else. -/
def Obligations.JumpSetsPc : Prop :=
  ∀ (s : State) (nnn : Addr12), exec (.jp nnn) s = .next { s with pc := BitVec.ofNat 16 nnn.toNat }

/-- R104: `2nnn` pushes `pc` (the post-increment counter) and jumps; with 16 entries it fails with `StackOverflow`,
nothing pushed and `pc` as it was (the report is entry 1). -/
def Obligations.CallPushesReturnAddress : Prop :=
  ∀ (s : State) (nnn : Addr12),
    (s.stack.length < 16 →
        exec (.call nnn) s = .next { s with stack := s.pc :: s.stack, pc := BitVec.ofNat 16 nnn.toNat }) ∧
      (s.stack.length = 16 → exec (.call nnn) s = .next { s with report := some .stackOverflow })

/-- R102: `00EE` pops the most recent entry into `pc`, whatever it is; on an empty stack it fails with `StackUnderflow`
and leaves `pc` and the stack (the report is entry 1). -/
def Obligations.ReturnPopsMostRecent : Prop :=
  ∀ s : State,
    (∀ v rest, s.stack = v :: rest → exec .ret s = .next { s with stack := rest, pc := v }) ∧
      (s.stack = [] → exec .ret s = .next { s with report := some .stackUnderflow })

/-- R105 to R108: each skip adds 2 to `pc` when its comparison holds, and changes nothing else. -/
def Obligations.SkipsFollowTheirComparison : Prop :=
  ∀ (s : State) (x y : RegIdx) (kk : Byte),
    exec (.seImm x kk) s = .next { s with pc := if s.reg x = kk then s.pc + 2 else s.pc } ∧
      exec (.sneImm x kk) s = .next { s with pc := if s.reg x = kk then s.pc else s.pc + 2 } ∧
      exec (.seReg x y) s = .next { s with pc := if s.reg x = s.reg y then s.pc + 2 else s.pc } ∧
      exec (.sneReg x y) s = .next { s with pc := if s.reg x = s.reg y then s.pc else s.pc + 2 }

/-- R109: `Bnnn` jumps to `nnn + V[x]`, computed without wrap, the register selected by the top nibble of `nnn`, and
changes nothing else. -/
def Obligations.JumpOffsetAddsRegister : Prop :=
  ∀ (s : State) (nnn : Addr12), ∃ t : State,
    exec (.jpOff (nnn.extractLsb' 8 4) nnn) s = .next t ∧
      t.pc.toNat = nnn.toNat + (s.reg (nnn.extractLsb' 8 4)).toNat ∧ t = { s with pc := t.pc }

/-! ## Register file and ALU -/

/-- R133, R134, R135: the loads and the immediate add write `V[x]`, the add modulo 256, and change nothing else: `VF`
is unchanged unless `x = 0xF`. -/
def Obligations.LoadsAndImmediateAdd : Prop :=
  ∀ (s : State) (x y : RegIdx) (kk : Byte),
    exec (.ldImm x kk) s = .next { s with V := s.V.set x.toNat kk x.isLt } ∧
      exec (.addImm x kk) s =
        .next { s with V := s.V.set x.toNat (BitVec.ofNat 8 (((s.reg x).toNat + kk.toNat) % 256)) x.isLt } ∧
      exec (.ldReg x y) s = .next { s with V := s.V.set x.toNat (s.reg y) x.isLt }

/-- R136 to R138: the bitwise operations, bit by bit, and `VF` set to 0 only under `vf_reset_quirk`, landing last (the
order for `x = 0xF` is the spec's D12, entry 11); nothing else changes. -/
def Obligations.LogicOperationsUnderQuirk : Prop :=
  ∀ (s : State) (x y : RegIdx) (i : Instr) (op : Bool → Bool → Bool),
    (i, op) ∈ [(Instr.orReg x y, or), (Instr.andReg x y, and), (Instr.xorReg x y, xor)] →
      ∃ b : Byte, (∀ k < 8, b.getLsbD k = op ((s.reg x).getLsbD k) ((s.reg y).getLsbD k)) ∧
        exec i s =
          .next { s with
            V := if s.params.vfResetQuirk then (s.V.set x.toNat b x.isLt).set 15 0 else s.V.set x.toNat b x.isLt }

/-- R139: `8xy4` writes the sum modulo 256 and then `VF`, 1 exactly when the unwrapped sum exceeds 255 (the order for
`x = 0xF` is the spec's D12, entry 11); nothing else changes. -/
def Obligations.AddSetsCarry : Prop :=
  ∀ (s : State) (x y : RegIdx),
    exec (.addReg x y) s =
      .next { s with
        V := (s.V.set x.toNat (BitVec.ofNat 8 (((s.reg x).toNat + (s.reg y).toNat) % 256)) x.isLt).set 15
          (if (s.reg x).toNat + (s.reg y).toNat > 255 then 1 else 0) }

/-- R140, R142: the subtractions write the difference modulo 256 and then `VF`, 1 exactly when there is no borrow,
equality included (the order for `x = 0xF` is the spec's D12, entry 11); nothing else changes. -/
def Obligations.SubtractionsSetNoBorrow : Prop :=
  ∀ (s : State) (x y : RegIdx),
    exec (.subReg x y) s =
        .next { s with
          V := (s.V.set x.toNat (BitVec.ofNat 8 ((256 + (s.reg x).toNat - (s.reg y).toNat) % 256)) x.isLt).set 15
            (if (s.reg y).toNat ≤ (s.reg x).toNat then 1 else 0) } ∧
      exec (.subnReg x y) s =
        .next { s with
          V := (s.V.set x.toNat (BitVec.ofNat 8 ((256 + (s.reg y).toNat - (s.reg x).toNat) % 256)) x.isLt).set 15
            (if (s.reg x).toNat ≤ (s.reg y).toNat then 1 else 0) }

/-- R141, R143: the shifts move `V[x]` by one bit, whatever `y` is (R82), and then `VF` takes the bit shifted out (the
order for `x = 0xF` is the spec's D12, entry 11); nothing else changes. -/
def Obligations.ShiftsMoveOneBit : Prop :=
  ∀ (s : State) (x y : RegIdx),
    exec (.shrReg x y) s =
        .next { s with
          V := (s.V.set x.toNat (BitVec.ofNat 8 ((s.reg x).toNat / 2)) x.isLt).set 15
            (BitVec.ofNat 8 ((s.reg x).toNat % 2)) } ∧
      exec (.shlReg x y) s =
        .next { s with
          V := (s.V.set x.toNat (BitVec.ofNat 8 ((s.reg x).toNat * 2 % 256)) x.isLt).set 15
            (BitVec.ofNat 8 ((s.reg x).toNat / 128)) }

/-- R150: `Cxkk` writes the step's draw modulo `kk + 1`, never above `kk`, uses the draw up, and changes nothing else.
The draw is the free value `Config.draw8` (R151; the width of `kk + 1` is the spec's D14; entries 2 and 13), so this
holds for every draw. -/
def Obligations.RandomIsLimitedByImmediate : Prop :=
  ∀ (s : State) (x : RegIdx) (kk : Byte), ∃ b : Byte,
    b.toNat = (Config.draw8 s.draws).toNat % (kk.toNat + 1) ∧ b.toNat ≤ kk.toNat ∧
      exec (.rnd x kk) s = .next { s with V := s.V.set x.toNat b x.isLt, draws := s.draws + 1 }

/-! ## Index register and memory -/

/-- R170: `Annn` sets `I` to the zero-extended address and changes nothing else. -/
def Obligations.LoadIndexImmediate : Prop :=
  ∀ (s : State) (nnn : Addr12), exec (.ldI nnn) s = .next { s with I := BitVec.ofNat 16 nnn.toNat }

/-- R171: `Fx1E` adds `V[x]` to `I` without wrap, or fails with `IndexOverflow` and leaves `I` when the sum exceeds
`0xFFF` (that threshold is the spec's D13, entry 12; the report is entry 1). -/
def Obligations.IndexAddFailsPastMemory : Prop :=
  ∀ (s : State) (x : RegIdx),
    (s.I.toNat + (s.reg x).toNat ≤ 0xFFF →
        exec (.addIVx x) s = .next { s with I := BitVec.ofNat 16 (s.I.toNat + (s.reg x).toNat) }) ∧
      (0xFFF < s.I.toNat + (s.reg x).toNat → exec (.addIVx x) s = .next { s with report := some .indexOverflow })

/-- R172, R173: the glyph addresses `V[x] * 5` and `0x50 + V[x] * 10` for every value of `V[x]`, unmasked (the spec's
D26, entry 20); nothing else changes. -/
def Obligations.GlyphAddresses : Prop :=
  ∀ (s : State) (x : RegIdx), ∃ t u : State,
    exec (.ldFVx x) s = .next t ∧ t.I.toNat = (s.reg x).toNat * 5 ∧ t = { s with I := t.I } ∧
      exec (.ldHfVx x) s = .next u ∧ u.I.toNat = 0x50 + (s.reg x).toNat * 10 ∧ u = { s with I := u.I }

/-- R174: `Fx33` stores the three decimal digits of `V[x]` at `I`, `I + 1`, `I + 2` and changes no other byte and no
other state; past the end of memory it fails with `OutOfBounds` and writes nothing. Premise: canonical memory, which
every step keeps (StepKeepsInvariant). The report is entry 1. -/
def Obligations.DecimalDigitsAreStored : Prop :=
  ∀ (s : State) (x : RegIdx), Memory.wf s.params s.mem →
    (s.I.toNat + 3 ≤ 4096 → ∃ t : State,
        exec (.ldBVx x) s = .next t ∧ (t.readByte s.I.toNat).toNat = (s.reg x).toNat / 100 ∧
          (t.readByte (s.I.toNat + 1)).toNat = (s.reg x).toNat / 10 % 10 ∧
          (t.readByte (s.I.toNat + 2)).toNat = (s.reg x).toNat % 10 ∧
          (∀ a, a < s.I.toNat ∨ s.I.toNat + 3 ≤ a → t.readByte a = s.readByte a) ∧ t = { s with mem := t.mem }) ∧
      (4096 < s.I.toNat + 3 → exec (.ldBVx x) s = .next { s with report := some (.outOfBounds s.I 3) })

/-- R175: `Fx55` stores `V0..Vx` at `I`, …, `I + x`, changes no other byte, and increments `I` by `x + 1` only under
`jumping_quirk`; past the end of memory it fails with `OutOfBounds` and writes nothing. Premise as in R174's. The
report is entry 1. -/
def Obligations.RegisterBlockIsStored : Prop :=
  ∀ (s : State) (x : RegIdx), Memory.wf s.params s.mem →
    (s.I.toNat + x.toNat + 1 ≤ 4096 → ∃ t : State,
        exec (.ldMemVx x) s = .next t ∧
          (∀ z : RegIdx, z.toNat ≤ x.toNat → t.readByte (s.I.toNat + z.toNat) = s.reg z) ∧
          (∀ a, a < s.I.toNat ∨ s.I.toNat + x.toNat + 1 ≤ a → t.readByte a = s.readByte a) ∧
          t.I.toNat = s.I.toNat + (if s.params.jumpingQuirk then x.toNat + 1 else 0) ∧
          t = { s with mem := t.mem, I := t.I }) ∧
      (4096 < s.I.toNat + x.toNat + 1 →
        exec (.ldMemVx x) s = .next { s with report := some (.outOfBounds s.I (x.toNat + 1)) })

/-- R176: `Fx65` loads `V0..Vx` from `I`, …, `I + x`, leaves the registers above `x` and all of memory, and increments
`I` by `x + 1` only under `jumping_quirk`; past the end of memory it fails with `OutOfBounds` and writes nothing (the
report is entry 1). -/
def Obligations.RegisterBlockIsLoaded : Prop :=
  ∀ (s : State) (x : RegIdx),
    (s.I.toNat + x.toNat + 1 ≤ 4096 → ∃ t : State,
        exec (.ldVxMem x) s = .next t ∧
          (∀ z : RegIdx, z.toNat ≤ x.toNat → t.reg z = s.readByte (s.I.toNat + z.toNat)) ∧
          (∀ z : RegIdx, x.toNat < z.toNat → t.reg z = s.reg z) ∧
          t.I.toNat = s.I.toNat + (if s.params.jumpingQuirk then x.toNat + 1 else 0) ∧
          t = { s with V := t.V, I := t.I }) ∧
      (4096 < s.I.toNat + x.toNat + 1 →
        exec (.ldVxMem x) s = .next { s with report := some (.outOfBounds s.I (x.toNat + 1)) })

/-- The source's round trip (spec/95_test_vectors.md E5): `Fx55`, then, with any registers and `I` put back, `Fx65`
gives `V0..Vx` back exactly, under either setting of `jumping_quirk`. -/
def Obligations.StoreThenLoadRoundTrips : Prop :=
  ∀ (s : State) (x : RegIdx) (V : Vector Byte 16), Memory.wf s.params s.mem → s.I.toNat + x.toNat + 1 ≤ 4096 →
    ∃ t u : State, exec (.ldMemVx x) s = .next t ∧ exec (.ldVxMem x) { t with V := V, I := s.I } = .next u ∧
      ∀ z : RegIdx, z.toNat ≤ x.toNat → u.reg z = s.reg z

/-- A store is what the next fetch of its address reads (R63; coherence is the spec's D25): `Fx55` of at least two
registers at `I`, then a fetch from that address, gives the word `V0 ++ V1`. -/
def Obligations.FetchSeesEarlierStores : Prop :=
  ∀ (s : State) (x : RegIdx), Memory.wf s.params s.mem → 1 ≤ x.toNat → s.I.toNat + x.toNat + 1 ≤ 4096 →
    ∃ t : State, exec (.ldMemVx x) s = .next t ∧ State.fetch { t with pc := s.I } = some (s.reg 0 ++ s.reg 1)

/-! ## Display -/

/-- `00E0` clears every cell of the 128×64 storage, in either mode, and changes nothing else (R202; the whole storage is
the spec's D8, entry 18). -/
def Obligations.ClearBlanksEveryCell : Prop :=
  ∀ s : State, ∃ t : State,
    exec .cls s = .next t ∧ (∀ c r, Framebuffer.lit t.FB c r = false) ∧ t = { s with FB := t.FB }

/-- `00FE` and `00FF` set the resolution mode and change nothing else, the framebuffer included (R203, R204; set, not
flip, is the spec's D9, entry 18). -/
def Obligations.ModeOpcodesSetResolution : Prop :=
  ∀ s : State, exec .low s = .next { s with hires := false } ∧ exec .high s = .next { s with hires := true }

/-- R201: the active dimensions, all wrap arithmetic of a draw modulo them, and no cell outside the active window
touched. -/
def Obligations.DrawStaysInActiveWindow : Prop :=
  ∀ (s : State), (s.activeWidth, s.activeHeight) = (if s.hires then (128, 64) else (64, 32)) ∧
    ∀ (x y : RegIdx) (n : BitVec 4),
      (∀ row col, s.spriteCell x y row col =
          (((s.reg x).toNat % s.activeWidth + col) % s.activeWidth,
            ((s.reg y).toNat % s.activeHeight + row) % s.activeHeight)) ∧
        ∀ (t : State) (c r : Nat), exec (.drw x y n) s = .next t → ¬ (c < s.activeWidth ∧ r < s.activeHeight) →
          Framebuffer.lit t.FB c r = Framebuffer.lit s.FB c r

/-- R208 to R211: when the sprite's bytes lie in memory, a draw toggles exactly the cells that a set sprite bit lands on,
wrapped modulo the active dimensions, leaves every other cell, sets `VF` to 1 when one of those cells was lit and to 0
otherwise (the origin read from the old registers), and changes nothing else. Which bit is which column is
`State.spriteBit`, whose order is the spec's D10 (entry 19) and stated by SpriteShapeAndBits. -/
def Obligations.DrawTogglesSpriteCells : Prop :=
  ∀ (s : State) (x y : RegIdx) (n : BitVec 4), s.I.toNat + (spriteShape s.hires n).len ≤ 4096 → ∃ t : State,
    exec (.drw x y n) s = .next t ∧
      (∀ c r, s.SpriteCovers x y n c r → Framebuffer.lit t.FB c r = !Framebuffer.lit s.FB c r) ∧
      (∀ c r, ¬ s.SpriteCovers x y n c r → Framebuffer.lit t.FB c r = Framebuffer.lit s.FB c r) ∧
      ((∃ c r, s.SpriteCovers x y n c r ∧ Framebuffer.lit s.FB c r = true) → t.reg VF = 1) ∧
      ((¬ ∃ c r, s.SpriteCovers x y n c r ∧ Framebuffer.lit s.FB c r = true) → t.reg VF = 0) ∧
      t = { s with FB := t.FB, V := s.V.set 15 (t.reg VF) }

/-- A draw whose sprite bytes pass the end of memory fails with `OutOfBounds`: no pixel and no `VF` is written (R212;
check before effect is the spec's D28, entry 21; the report is entry 1). -/
def Obligations.DrawFailsPastMemory : Prop :=
  ∀ (s : State) (x y : RegIdx) (n : BitVec 4), 4096 < s.I.toNat + (spriteShape s.hires n).len →
    exec (.drw x y n) s = .next { s with report := some (.outOfBounds s.I (spriteShape s.hires n).len) }

/-- The shape and the bits of a sprite (R205 to R207; the bit order and the big sprite's layout are the spec's D10, the
empty low-resolution `Dxy0` its D22, entry 19): column 0 is the most significant bit of a row's byte, or of the two
bytes of a big sprite's row. -/
def Obligations.SpriteShapeAndBits : Prop :=
  (∀ (hires : Bool) (n : BitVec 4), spriteShape hires n =
      if hires = true ∧ n = 0 then ⟨16, 16, 32⟩ else ⟨n.toNat, 8, n.toNat⟩) ∧
    ∀ (s : State) (n : BitVec 4) (row col : Nat),
      (¬ (s.hires = true ∧ n = 0) → col < 8 →
          (s.spriteBit (spriteShape s.hires n) row col = true ↔
            (s.readByte (s.I.toNat + row)).toNat / 2 ^ (7 - col) % 2 = 1)) ∧
        (s.hires = true ∧ n = 0 → col < 8 →
          (s.spriteBit (spriteShape s.hires n) row col = true ↔
            (s.readByte (s.I.toNat + 2 * row)).toNat / 2 ^ (7 - col) % 2 = 1)) ∧
        (s.hires = true ∧ n = 0 → 8 ≤ col → col < 16 →
          (s.spriteBit (spriteShape s.hires n) row col = true ↔
            (s.readByte (s.I.toNat + 2 * row + 1)).toNat / 2 ^ (15 - col) % 2 = 1))

/-- `Dxy0` in low-resolution mode draws nothing and writes `VF = 00` (R207; the spec's D22, entry 19). -/
def Obligations.LowResolutionEmptyDraw : Prop :=
  ∀ (s : State) (x y : RegIdx), s.hires = false → s.I.toNat ≤ 4096 →
    exec (.drw x y 0) s = .next { s with V := s.V.set 15 0 }

/-- R213: drawing the same sprite twice at the same origin restores every cell. The second draw reports a collision
exactly when some cell of a set sprite bit was not lit before the first draw (R210), so, when none of those cells was
lit, exactly when the sprite has a set bit, which is how this model reads R213's last clause (entry 29). The registers
are put back between the draws, so that the origin is the same also for `x = 0xF` or `y = 0xF`. -/
def Obligations.DrawTwiceRestores : Prop :=
  ∀ (s : State) (x y : RegIdx) (n : BitVec 4), s.I.toNat + (spriteShape s.hires n).len ≤ 4096 → ∃ t u : State,
    exec (.drw x y n) s = .next t ∧ exec (.drw x y n) { t with V := s.V } = .next u ∧ u.FB = s.FB ∧
      (u.reg VF = 1 ↔ ∃ c r, s.SpriteCovers x y n c r ∧ Framebuffer.lit s.FB c r = false) ∧
      ((∀ c r, s.SpriteCovers x y n c r → Framebuffer.lit s.FB c r = false) →
        (u.reg VF = 1 ↔ ∃ row col, row < (spriteShape s.hires n).rows ∧ col < (spriteShape s.hires n).width ∧
          s.spriteBit (spriteShape s.hires n) row col = true))

/-- R213: within one draw every cell is toggled at most once, so the order of the sprite's bits is irrelevant: any order
of the same cells gives the same framebuffer and the same collision. -/
def Obligations.DrawOrderIsIrrelevant : Prop :=
  ∀ (s : State) (x y : RegIdx) (n : BitVec 4) (cells : List (Nat × Nat)),
    (s.spriteCells x y (spriteShape s.hires n)).Nodup ∧
      (cells.Perm (s.spriteCells x y (spriteShape s.hires n)) →
        composite s.FB cells = composite s.FB (s.spriteCells x y (spriteShape s.hires n)))

/-! ## Keys and timers -/

/-- R230, R231 for a key number: the key tests skip on the key's level and change nothing else. -/
def Obligations.KeyTestsSkipOnLevel : Prop :=
  ∀ (s : State) (x : RegIdx) (h : (s.reg x).toNat < 16),
    exec (.skp x) s = .next { s with pc := if s.key[(s.reg x).toNat] then s.pc + 2 else s.pc } ∧
      exec (.sknp x) s = .next { s with pc := if s.key[(s.reg x).toNat] then s.pc else s.pc + 2 }

/-- A key test whose register is above `0F` is refused (R232, R262: the spec's own outcome, its D15, entry 14). -/
def Obligations.KeyTestsRefuseAboveFifteen : Prop :=
  ∀ (s : State) (x : RegIdx), 15 < (s.reg x).toNat →
    exec (.skp x) s = .refused .keyIndexOutOfRange ∧ exec (.sknp x) s = .refused .keyIndexOutOfRange

/-- `Fx0A` with a key pressed writes the lowest-numbered pressed key to `V[x]` and changes nothing else (R234; that it
writes, and which key, is the spec's D16, entry 15). -/
def Obligations.KeyWaitTakesLowestKey : Prop :=
  ∀ (s : State) (x : RegIdx) (k : Nat) (hk : k < 16), s.key[k] = true →
    (∀ (j : Nat) (hj : j < k), s.key[j] = false) →
      exec (.ldVxK x) s = .next { s with V := s.V.set x.toNat (BitVec.ofNat 8 k) x.isLt }

/-- `Fx0A` with no key pressed leaves `pc` net-unchanged over the step and every other state unchanged: the same
instruction runs again (R234; the step reports nothing, entry 1). -/
def Obligations.KeyWaitSpinsWithoutKey : Prop :=
  ∀ (s : State) (x : RegIdx), (∀ k : Fin 16, s.key[k] = false) →
    exec (.ldVxK x) s = .next { s with pc := s.pc - 2 } ∧
      (s.fetch.bind decodeWord = some (.ldVxK x) → step s = .next { s with report := none })

/-- R233, R235, R236: the timer moves write their destination and nothing else. -/
def Obligations.TimerMoves : Prop :=
  ∀ (s : State) (x : RegIdx),
    exec (.ldVxDt x) s = .next { s with V := s.V.set x.toNat s.DT x.isLt } ∧
      exec (.ldDtVx x) s = .next { s with DT := s.reg x } ∧ exec (.ldStVx x) s = .next { s with ST := s.reg x }

/-! ## The host's operations -/

/-- `decrement_timer()` lowers both timers by exactly 1 with a floor of 0 and changes nothing else (R266; the sound
timer too is the spec's D17, entry 16). -/
def Obligations.TimersDecrementWithFloor : Prop :=
  ∀ s : State, (s.decrementTimer).DT.toNat = s.DT.toNat - 1 ∧ (s.decrementTimer).ST.toNat = s.ST.toNat - 1 ∧
    s.decrementTimer = { s with DT := (s.decrementTimer).DT, ST := (s.decrementTimer).ST }

/-- `set_key(k)` and `clear_key(k)` write `key[k]` and nothing else, for `k` up to 15, and are refused above (R267; the
refusal is the spec's D27, entry 14). -/
def Obligations.HostKeysWriteTheLatch : Prop :=
  ∀ (s : State) (k : Nat),
    (∀ h : k < 16, s.setKey k = .next { s with key := s.key.set k true } ∧
        s.clearKey k = .next { s with key := s.key.set k false }) ∧
      (15 < k → s.setKey k = .refused .hostKeyIndexOutOfRange ∧ s.clearKey k = .refused .hostKeyIndexOutOfRange)

/-- R281: a program longer than 3584 bytes fails with `ProgramTooLarge` and no engine is created; any other is accepted,
the empty one too, after which memory from `0x200` is all zero and the first fetch reads `0x0000`, a `BAD` word. -/
def Obligations.ConstructLimitsProgramLength : Prop :=
  ∀ (program : List Byte) (params : Params),
    (3584 < program.length → construct program params = .fault (.programTooLarge program.length)) ∧
      (program.length ≤ 3584 → ∃ s, construct program params = .next s ∧
        (program = [] → (∀ a, 0x200 ≤ a → a < 4096 → s.readByte a = 0) ∧ s.fetch = some 0x0000)) ∧
      decodeWord 0x0000 = none

/-- R29, R284: after construction `pc` holds `0x200`, the font is in place before the first step, and the first step
fetches the word formed by the program's first two bytes. -/
def Obligations.ConstructStartsAtTheProgram : Prop :=
  ∀ (program : List Byte) (params : Params), program.length ≤ 3584 → ∃ s,
    construct program params = .next s ∧ s.pc = 0x200 ∧
      (∀ (a : Nat) (h : a < 80), s.readByte a = params.fontSmall[a]) ∧
      ∀ b0 b1 rest, program = b0 :: b1 :: rest → s.fetch = some (b0 ++ b1)

/-- The address map after construction (R52, R282): the fonts, the program, and 0 elsewhere (zeros and fonts as
parameters are the spec's D4 to D6, entries 4 to 6). -/
def Obligations.ConstructLaysOutMemory : Prop :=
  ∀ (program : List Byte) (params : Params) (s : State), construct program params = .next s →
    (∀ (a : Nat) (h : a < 0x50), s.readByte a = params.fontSmall[a]) ∧
      (∀ (a : Nat) (h : a < 160), s.readByte (0x50 + a) = if params.largeFontIncluded then params.fontLarge[a] else 0) ∧
      (∀ a, 0xF0 ≤ a → a < 0x200 → s.readByte a = 0) ∧
      (∀ (a : Nat) (h : a < program.length), s.readByte (0x200 + a) = program[a]) ∧
      ∀ a, 0x200 + program.length ≤ a → a < 4096 → s.readByte a = 0

/-- Every other piece of state after construction (R283): registers, `I`, timers and stack are the spec's D3 (entry 7),
the mode its D7 and the keys its D27 (entry 8), the framebuffer the source's; `report` and `draws` are the model's own
(entries 1, 2), so nothing is said of `draws`. -/
def Obligations.ConstructResetsEveryRegister : Prop :=
  ∀ (program : List Byte) (params : Params) (s : State), construct program params = .next s →
    s.pc = 0x200 ∧ (∀ x, s.reg x = 0) ∧ s.I = 0 ∧ s.DT = 0 ∧ s.ST = 0 ∧ s.stack = [] ∧
      (∀ c r, Framebuffer.lit s.FB c r = false) ∧ s.hires = false ∧ (∀ k : Fin 16, s.key[k] = false) ∧
      s.params = params ∧ s.report = none
end

