-- ==== Sys2Proof/Laws/State.lean ====
section
/-! SUPPORT. One lemma per field per update of the state, each true by unfolding the update, so that no later proof
unfolds a record update. -/

namespace Sys2Proof.Machine

/-! ## setReg -/

@[simp] theorem State.setReg_V (s : State) (x : RegIdx) (b : Byte) : (s.setReg x b).V = s.V.set x.toNat b x.isLt := rfl
@[simp] theorem State.setReg_I (s : State) (x : RegIdx) (b : Byte) : (s.setReg x b).I = s.I := rfl
@[simp] theorem State.setReg_pc (s : State) (x : RegIdx) (b : Byte) : (s.setReg x b).pc = s.pc := rfl
@[simp] theorem State.setReg_DT (s : State) (x : RegIdx) (b : Byte) : (s.setReg x b).DT = s.DT := rfl
@[simp] theorem State.setReg_ST (s : State) (x : RegIdx) (b : Byte) : (s.setReg x b).ST = s.ST := rfl
@[simp] theorem State.setReg_stack (s : State) (x : RegIdx) (b : Byte) : (s.setReg x b).stack = s.stack := rfl
@[simp] theorem State.setReg_mem (s : State) (x : RegIdx) (b : Byte) : (s.setReg x b).mem = s.mem := rfl
@[simp] theorem State.setReg_FB (s : State) (x : RegIdx) (b : Byte) : (s.setReg x b).FB = s.FB := rfl
@[simp] theorem State.setReg_hires (s : State) (x : RegIdx) (b : Byte) : (s.setReg x b).hires = s.hires := rfl
@[simp] theorem State.setReg_key (s : State) (x : RegIdx) (b : Byte) : (s.setReg x b).key = s.key := rfl
@[simp] theorem State.setReg_params (s : State) (x : RegIdx) (b : Byte) : (s.setReg x b).params = s.params := rfl
@[simp] theorem State.setReg_report (s : State) (x : RegIdx) (b : Byte) : (s.setReg x b).report = s.report := rfl
@[simp] theorem State.setReg_draws (s : State) (x : RegIdx) (b : Byte) : (s.setReg x b).draws = s.draws := rfl

/-! ## setI -/

@[simp] theorem State.setI_V (s : State) (w : Word) : (s.setI w).V = s.V := rfl
@[simp] theorem State.setI_I (s : State) (w : Word) : (s.setI w).I = w := rfl
@[simp] theorem State.setI_pc (s : State) (w : Word) : (s.setI w).pc = s.pc := rfl
@[simp] theorem State.setI_DT (s : State) (w : Word) : (s.setI w).DT = s.DT := rfl
@[simp] theorem State.setI_ST (s : State) (w : Word) : (s.setI w).ST = s.ST := rfl
@[simp] theorem State.setI_stack (s : State) (w : Word) : (s.setI w).stack = s.stack := rfl
@[simp] theorem State.setI_mem (s : State) (w : Word) : (s.setI w).mem = s.mem := rfl
@[simp] theorem State.setI_FB (s : State) (w : Word) : (s.setI w).FB = s.FB := rfl
@[simp] theorem State.setI_hires (s : State) (w : Word) : (s.setI w).hires = s.hires := rfl
@[simp] theorem State.setI_key (s : State) (w : Word) : (s.setI w).key = s.key := rfl
@[simp] theorem State.setI_params (s : State) (w : Word) : (s.setI w).params = s.params := rfl
@[simp] theorem State.setI_report (s : State) (w : Word) : (s.setI w).report = s.report := rfl
@[simp] theorem State.setI_draws (s : State) (w : Word) : (s.setI w).draws = s.draws := rfl

/-! ## setPc -/

@[simp] theorem State.setPc_V (s : State) (w : Word) : (s.setPc w).V = s.V := rfl
@[simp] theorem State.setPc_I (s : State) (w : Word) : (s.setPc w).I = s.I := rfl
@[simp] theorem State.setPc_pc (s : State) (w : Word) : (s.setPc w).pc = w := rfl
@[simp] theorem State.setPc_DT (s : State) (w : Word) : (s.setPc w).DT = s.DT := rfl
@[simp] theorem State.setPc_ST (s : State) (w : Word) : (s.setPc w).ST = s.ST := rfl
@[simp] theorem State.setPc_stack (s : State) (w : Word) : (s.setPc w).stack = s.stack := rfl
@[simp] theorem State.setPc_mem (s : State) (w : Word) : (s.setPc w).mem = s.mem := rfl
@[simp] theorem State.setPc_FB (s : State) (w : Word) : (s.setPc w).FB = s.FB := rfl
@[simp] theorem State.setPc_hires (s : State) (w : Word) : (s.setPc w).hires = s.hires := rfl
@[simp] theorem State.setPc_key (s : State) (w : Word) : (s.setPc w).key = s.key := rfl
@[simp] theorem State.setPc_params (s : State) (w : Word) : (s.setPc w).params = s.params := rfl
@[simp] theorem State.setPc_report (s : State) (w : Word) : (s.setPc w).report = s.report := rfl
@[simp] theorem State.setPc_draws (s : State) (w : Word) : (s.setPc w).draws = s.draws := rfl

/-! ## setDT -/

@[simp] theorem State.setDT_V (s : State) (b : Byte) : (s.setDT b).V = s.V := rfl
@[simp] theorem State.setDT_I (s : State) (b : Byte) : (s.setDT b).I = s.I := rfl
@[simp] theorem State.setDT_pc (s : State) (b : Byte) : (s.setDT b).pc = s.pc := rfl
@[simp] theorem State.setDT_DT (s : State) (b : Byte) : (s.setDT b).DT = b := rfl
@[simp] theorem State.setDT_ST (s : State) (b : Byte) : (s.setDT b).ST = s.ST := rfl
@[simp] theorem State.setDT_stack (s : State) (b : Byte) : (s.setDT b).stack = s.stack := rfl
@[simp] theorem State.setDT_mem (s : State) (b : Byte) : (s.setDT b).mem = s.mem := rfl
@[simp] theorem State.setDT_FB (s : State) (b : Byte) : (s.setDT b).FB = s.FB := rfl
@[simp] theorem State.setDT_hires (s : State) (b : Byte) : (s.setDT b).hires = s.hires := rfl
@[simp] theorem State.setDT_key (s : State) (b : Byte) : (s.setDT b).key = s.key := rfl
@[simp] theorem State.setDT_params (s : State) (b : Byte) : (s.setDT b).params = s.params := rfl
@[simp] theorem State.setDT_report (s : State) (b : Byte) : (s.setDT b).report = s.report := rfl
@[simp] theorem State.setDT_draws (s : State) (b : Byte) : (s.setDT b).draws = s.draws := rfl

/-! ## setST -/

@[simp] theorem State.setST_V (s : State) (b : Byte) : (s.setST b).V = s.V := rfl
@[simp] theorem State.setST_I (s : State) (b : Byte) : (s.setST b).I = s.I := rfl
@[simp] theorem State.setST_pc (s : State) (b : Byte) : (s.setST b).pc = s.pc := rfl
@[simp] theorem State.setST_DT (s : State) (b : Byte) : (s.setST b).DT = s.DT := rfl
@[simp] theorem State.setST_ST (s : State) (b : Byte) : (s.setST b).ST = b := rfl
@[simp] theorem State.setST_stack (s : State) (b : Byte) : (s.setST b).stack = s.stack := rfl
@[simp] theorem State.setST_mem (s : State) (b : Byte) : (s.setST b).mem = s.mem := rfl
@[simp] theorem State.setST_FB (s : State) (b : Byte) : (s.setST b).FB = s.FB := rfl
@[simp] theorem State.setST_hires (s : State) (b : Byte) : (s.setST b).hires = s.hires := rfl
@[simp] theorem State.setST_key (s : State) (b : Byte) : (s.setST b).key = s.key := rfl
@[simp] theorem State.setST_params (s : State) (b : Byte) : (s.setST b).params = s.params := rfl
@[simp] theorem State.setST_report (s : State) (b : Byte) : (s.setST b).report = s.report := rfl
@[simp] theorem State.setST_draws (s : State) (b : Byte) : (s.setST b).draws = s.draws := rfl

/-! ## setHires -/

@[simp] theorem State.setHires_V (s : State) (b : Bool) : (s.setHires b).V = s.V := rfl
@[simp] theorem State.setHires_I (s : State) (b : Bool) : (s.setHires b).I = s.I := rfl
@[simp] theorem State.setHires_pc (s : State) (b : Bool) : (s.setHires b).pc = s.pc := rfl
@[simp] theorem State.setHires_DT (s : State) (b : Bool) : (s.setHires b).DT = s.DT := rfl
@[simp] theorem State.setHires_ST (s : State) (b : Bool) : (s.setHires b).ST = s.ST := rfl
@[simp] theorem State.setHires_stack (s : State) (b : Bool) : (s.setHires b).stack = s.stack := rfl
@[simp] theorem State.setHires_mem (s : State) (b : Bool) : (s.setHires b).mem = s.mem := rfl
@[simp] theorem State.setHires_FB (s : State) (b : Bool) : (s.setHires b).FB = s.FB := rfl
@[simp] theorem State.setHires_hires (s : State) (b : Bool) : (s.setHires b).hires = b := rfl
@[simp] theorem State.setHires_key (s : State) (b : Bool) : (s.setHires b).key = s.key := rfl
@[simp] theorem State.setHires_params (s : State) (b : Bool) : (s.setHires b).params = s.params := rfl
@[simp] theorem State.setHires_report (s : State) (b : Bool) : (s.setHires b).report = s.report := rfl
@[simp] theorem State.setHires_draws (s : State) (b : Bool) : (s.setHires b).draws = s.draws := rfl

/-! ## setFB -/

@[simp] theorem State.setFB_V (s : State) (fb : Framebuffer) : (s.setFB fb).V = s.V := rfl
@[simp] theorem State.setFB_I (s : State) (fb : Framebuffer) : (s.setFB fb).I = s.I := rfl
@[simp] theorem State.setFB_pc (s : State) (fb : Framebuffer) : (s.setFB fb).pc = s.pc := rfl
@[simp] theorem State.setFB_DT (s : State) (fb : Framebuffer) : (s.setFB fb).DT = s.DT := rfl
@[simp] theorem State.setFB_ST (s : State) (fb : Framebuffer) : (s.setFB fb).ST = s.ST := rfl
@[simp] theorem State.setFB_stack (s : State) (fb : Framebuffer) : (s.setFB fb).stack = s.stack := rfl
@[simp] theorem State.setFB_mem (s : State) (fb : Framebuffer) : (s.setFB fb).mem = s.mem := rfl
@[simp] theorem State.setFB_FB (s : State) (fb : Framebuffer) : (s.setFB fb).FB = fb := rfl
@[simp] theorem State.setFB_hires (s : State) (fb : Framebuffer) : (s.setFB fb).hires = s.hires := rfl
@[simp] theorem State.setFB_key (s : State) (fb : Framebuffer) : (s.setFB fb).key = s.key := rfl
@[simp] theorem State.setFB_params (s : State) (fb : Framebuffer) : (s.setFB fb).params = s.params := rfl
@[simp] theorem State.setFB_report (s : State) (fb : Framebuffer) : (s.setFB fb).report = s.report := rfl
@[simp] theorem State.setFB_draws (s : State) (fb : Framebuffer) : (s.setFB fb).draws = s.draws := rfl

/-! ## setV -/

@[simp] theorem State.setV_V (s : State) (V : Vector Byte 16) : (s.setV V).V = V := rfl
@[simp] theorem State.setV_I (s : State) (V : Vector Byte 16) : (s.setV V).I = s.I := rfl
@[simp] theorem State.setV_pc (s : State) (V : Vector Byte 16) : (s.setV V).pc = s.pc := rfl
@[simp] theorem State.setV_DT (s : State) (V : Vector Byte 16) : (s.setV V).DT = s.DT := rfl
@[simp] theorem State.setV_ST (s : State) (V : Vector Byte 16) : (s.setV V).ST = s.ST := rfl
@[simp] theorem State.setV_stack (s : State) (V : Vector Byte 16) : (s.setV V).stack = s.stack := rfl
@[simp] theorem State.setV_mem (s : State) (V : Vector Byte 16) : (s.setV V).mem = s.mem := rfl
@[simp] theorem State.setV_FB (s : State) (V : Vector Byte 16) : (s.setV V).FB = s.FB := rfl
@[simp] theorem State.setV_hires (s : State) (V : Vector Byte 16) : (s.setV V).hires = s.hires := rfl
@[simp] theorem State.setV_key (s : State) (V : Vector Byte 16) : (s.setV V).key = s.key := rfl
@[simp] theorem State.setV_params (s : State) (V : Vector Byte 16) : (s.setV V).params = s.params := rfl
@[simp] theorem State.setV_report (s : State) (V : Vector Byte 16) : (s.setV V).report = s.report := rfl
@[simp] theorem State.setV_draws (s : State) (V : Vector Byte 16) : (s.setV V).draws = s.draws := rfl

/-! ## setStack -/

@[simp] theorem State.setStack_V (s : State) (stack : List Word) : (s.setStack stack).V = s.V := rfl
@[simp] theorem State.setStack_I (s : State) (stack : List Word) : (s.setStack stack).I = s.I := rfl
@[simp] theorem State.setStack_pc (s : State) (stack : List Word) : (s.setStack stack).pc = s.pc := rfl
@[simp] theorem State.setStack_DT (s : State) (stack : List Word) : (s.setStack stack).DT = s.DT := rfl
@[simp] theorem State.setStack_ST (s : State) (stack : List Word) : (s.setStack stack).ST = s.ST := rfl
@[simp] theorem State.setStack_stack (s : State) (stack : List Word) : (s.setStack stack).stack = stack := rfl
@[simp] theorem State.setStack_mem (s : State) (stack : List Word) : (s.setStack stack).mem = s.mem := rfl
@[simp] theorem State.setStack_FB (s : State) (stack : List Word) : (s.setStack stack).FB = s.FB := rfl
@[simp] theorem State.setStack_hires (s : State) (stack : List Word) : (s.setStack stack).hires = s.hires := rfl
@[simp] theorem State.setStack_key (s : State) (stack : List Word) : (s.setStack stack).key = s.key := rfl
@[simp] theorem State.setStack_params (s : State) (stack : List Word) : (s.setStack stack).params = s.params := rfl
@[simp] theorem State.setStack_report (s : State) (stack : List Word) : (s.setStack stack).report = s.report := rfl
@[simp] theorem State.setStack_draws (s : State) (stack : List Word) : (s.setStack stack).draws = s.draws := rfl

/-! ## skip -/

@[simp] theorem State.skip_V (s : State) : (s.skip).V = s.V := rfl
@[simp] theorem State.skip_I (s : State) : (s.skip).I = s.I := rfl
@[simp] theorem State.skip_pc (s : State) : (s.skip).pc = s.pc + 2 := rfl
@[simp] theorem State.skip_DT (s : State) : (s.skip).DT = s.DT := rfl
@[simp] theorem State.skip_ST (s : State) : (s.skip).ST = s.ST := rfl
@[simp] theorem State.skip_stack (s : State) : (s.skip).stack = s.stack := rfl
@[simp] theorem State.skip_mem (s : State) : (s.skip).mem = s.mem := rfl
@[simp] theorem State.skip_FB (s : State) : (s.skip).FB = s.FB := rfl
@[simp] theorem State.skip_hires (s : State) : (s.skip).hires = s.hires := rfl
@[simp] theorem State.skip_key (s : State) : (s.skip).key = s.key := rfl
@[simp] theorem State.skip_params (s : State) : (s.skip).params = s.params := rfl
@[simp] theorem State.skip_report (s : State) : (s.skip).report = s.report := rfl
@[simp] theorem State.skip_draws (s : State) : (s.skip).draws = s.draws := rfl

/-! ## rewind -/

@[simp] theorem State.rewind_V (s : State) : (s.rewind).V = s.V := rfl
@[simp] theorem State.rewind_I (s : State) : (s.rewind).I = s.I := rfl
@[simp] theorem State.rewind_pc (s : State) : (s.rewind).pc = s.pc - 2 := rfl
@[simp] theorem State.rewind_DT (s : State) : (s.rewind).DT = s.DT := rfl
@[simp] theorem State.rewind_ST (s : State) : (s.rewind).ST = s.ST := rfl
@[simp] theorem State.rewind_stack (s : State) : (s.rewind).stack = s.stack := rfl
@[simp] theorem State.rewind_mem (s : State) : (s.rewind).mem = s.mem := rfl
@[simp] theorem State.rewind_FB (s : State) : (s.rewind).FB = s.FB := rfl
@[simp] theorem State.rewind_hires (s : State) : (s.rewind).hires = s.hires := rfl
@[simp] theorem State.rewind_key (s : State) : (s.rewind).key = s.key := rfl
@[simp] theorem State.rewind_params (s : State) : (s.rewind).params = s.params := rfl
@[simp] theorem State.rewind_report (s : State) : (s.rewind).report = s.report := rfl
@[simp] theorem State.rewind_draws (s : State) : (s.rewind).draws = s.draws := rfl

/-! ## advance -/

@[simp] theorem State.advance_V (s : State) : (s.advance).V = s.V := rfl
@[simp] theorem State.advance_I (s : State) : (s.advance).I = s.I := rfl
@[simp] theorem State.advance_pc (s : State) : (s.advance).pc = s.pc + 2 := rfl
@[simp] theorem State.advance_DT (s : State) : (s.advance).DT = s.DT := rfl
@[simp] theorem State.advance_ST (s : State) : (s.advance).ST = s.ST := rfl
@[simp] theorem State.advance_stack (s : State) : (s.advance).stack = s.stack := rfl
@[simp] theorem State.advance_mem (s : State) : (s.advance).mem = s.mem := rfl
@[simp] theorem State.advance_FB (s : State) : (s.advance).FB = s.FB := rfl
@[simp] theorem State.advance_hires (s : State) : (s.advance).hires = s.hires := rfl
@[simp] theorem State.advance_key (s : State) : (s.advance).key = s.key := rfl
@[simp] theorem State.advance_params (s : State) : (s.advance).params = s.params := rfl
@[simp] theorem State.advance_report (s : State) : (s.advance).report = none := rfl
@[simp] theorem State.advance_draws (s : State) : (s.advance).draws = s.draws := rfl

/-! ## writeByte -/

@[simp] theorem State.writeByte_V (s : State) (a : Nat) (v : Byte) : (s.writeByte a v).V = s.V := rfl
@[simp] theorem State.writeByte_I (s : State) (a : Nat) (v : Byte) : (s.writeByte a v).I = s.I := rfl
@[simp] theorem State.writeByte_pc (s : State) (a : Nat) (v : Byte) : (s.writeByte a v).pc = s.pc := rfl
@[simp] theorem State.writeByte_DT (s : State) (a : Nat) (v : Byte) : (s.writeByte a v).DT = s.DT := rfl
@[simp] theorem State.writeByte_ST (s : State) (a : Nat) (v : Byte) : (s.writeByte a v).ST = s.ST := rfl
@[simp] theorem State.writeByte_stack (s : State) (a : Nat) (v : Byte) : (s.writeByte a v).stack = s.stack := rfl
@[simp] theorem State.writeByte_mem (s : State) (a : Nat) (v : Byte) : (s.writeByte a v).mem = Memory.write (background s.params) s.mem a v := rfl
@[simp] theorem State.writeByte_FB (s : State) (a : Nat) (v : Byte) : (s.writeByte a v).FB = s.FB := rfl
@[simp] theorem State.writeByte_hires (s : State) (a : Nat) (v : Byte) : (s.writeByte a v).hires = s.hires := rfl
@[simp] theorem State.writeByte_key (s : State) (a : Nat) (v : Byte) : (s.writeByte a v).key = s.key := rfl
@[simp] theorem State.writeByte_params (s : State) (a : Nat) (v : Byte) : (s.writeByte a v).params = s.params := rfl
@[simp] theorem State.writeByte_report (s : State) (a : Nat) (v : Byte) : (s.writeByte a v).report = s.report := rfl
@[simp] theorem State.writeByte_draws (s : State) (a : Nat) (v : Byte) : (s.writeByte a v).draws = s.draws := rfl

/-! ## writeBytes -/

@[simp] theorem State.writeBytes_V (s : State) (a : Nat) (bytes : List Byte) : (s.writeBytes a bytes).V = s.V := rfl
@[simp] theorem State.writeBytes_I (s : State) (a : Nat) (bytes : List Byte) : (s.writeBytes a bytes).I = s.I := rfl
@[simp] theorem State.writeBytes_pc (s : State) (a : Nat) (bytes : List Byte) : (s.writeBytes a bytes).pc = s.pc := rfl
@[simp] theorem State.writeBytes_DT (s : State) (a : Nat) (bytes : List Byte) : (s.writeBytes a bytes).DT = s.DT := rfl
@[simp] theorem State.writeBytes_ST (s : State) (a : Nat) (bytes : List Byte) : (s.writeBytes a bytes).ST = s.ST := rfl
@[simp] theorem State.writeBytes_stack (s : State) (a : Nat) (bytes : List Byte) : (s.writeBytes a bytes).stack = s.stack := rfl
@[simp] theorem State.writeBytes_mem (s : State) (a : Nat) (bytes : List Byte) : (s.writeBytes a bytes).mem = Memory.writeAll (background s.params) s.mem a bytes := rfl
@[simp] theorem State.writeBytes_FB (s : State) (a : Nat) (bytes : List Byte) : (s.writeBytes a bytes).FB = s.FB := rfl
@[simp] theorem State.writeBytes_hires (s : State) (a : Nat) (bytes : List Byte) : (s.writeBytes a bytes).hires = s.hires := rfl
@[simp] theorem State.writeBytes_key (s : State) (a : Nat) (bytes : List Byte) : (s.writeBytes a bytes).key = s.key := rfl
@[simp] theorem State.writeBytes_params (s : State) (a : Nat) (bytes : List Byte) : (s.writeBytes a bytes).params = s.params := rfl
@[simp] theorem State.writeBytes_report (s : State) (a : Nat) (bytes : List Byte) : (s.writeBytes a bytes).report = s.report := rfl
@[simp] theorem State.writeBytes_draws (s : State) (a : Nat) (bytes : List Byte) : (s.writeBytes a bytes).draws = s.draws := rfl

/-! ## drawn -/

@[simp] theorem State.drawn_V (s : State) : (s.drawn).V = s.V := rfl
@[simp] theorem State.drawn_I (s : State) : (s.drawn).I = s.I := rfl
@[simp] theorem State.drawn_pc (s : State) : (s.drawn).pc = s.pc := rfl
@[simp] theorem State.drawn_DT (s : State) : (s.drawn).DT = s.DT := rfl
@[simp] theorem State.drawn_ST (s : State) : (s.drawn).ST = s.ST := rfl
@[simp] theorem State.drawn_stack (s : State) : (s.drawn).stack = s.stack := rfl
@[simp] theorem State.drawn_mem (s : State) : (s.drawn).mem = s.mem := rfl
@[simp] theorem State.drawn_FB (s : State) : (s.drawn).FB = s.FB := rfl
@[simp] theorem State.drawn_hires (s : State) : (s.drawn).hires = s.hires := rfl
@[simp] theorem State.drawn_key (s : State) : (s.drawn).key = s.key := rfl
@[simp] theorem State.drawn_params (s : State) : (s.drawn).params = s.params := rfl
@[simp] theorem State.drawn_report (s : State) : (s.drawn).report = s.report := rfl
@[simp] theorem State.drawn_draws (s : State) : (s.drawn).draws = s.draws + 1 := rfl

/-! ## decrementTimer -/

@[simp] theorem State.decrementTimer_V (s : State) : (s.decrementTimer).V = s.V := rfl
@[simp] theorem State.decrementTimer_I (s : State) : (s.decrementTimer).I = s.I := rfl
@[simp] theorem State.decrementTimer_pc (s : State) : (s.decrementTimer).pc = s.pc := rfl
@[simp] theorem State.decrementTimer_DT (s : State) : (s.decrementTimer).DT = timerTick s.DT := rfl
@[simp] theorem State.decrementTimer_ST (s : State) : (s.decrementTimer).ST = timerTick s.ST := rfl
@[simp] theorem State.decrementTimer_stack (s : State) : (s.decrementTimer).stack = s.stack := rfl
@[simp] theorem State.decrementTimer_mem (s : State) : (s.decrementTimer).mem = s.mem := rfl
@[simp] theorem State.decrementTimer_FB (s : State) : (s.decrementTimer).FB = s.FB := rfl
@[simp] theorem State.decrementTimer_hires (s : State) : (s.decrementTimer).hires = s.hires := rfl
@[simp] theorem State.decrementTimer_key (s : State) : (s.decrementTimer).key = s.key := rfl
@[simp] theorem State.decrementTimer_params (s : State) : (s.decrementTimer).params = s.params := rfl
@[simp] theorem State.decrementTimer_report (s : State) : (s.decrementTimer).report = s.report := rfl
@[simp] theorem State.decrementTimer_draws (s : State) : (s.decrementTimer).draws = s.draws := rfl

end Sys2Proof.Machine
end

