-- ==== Sys2Proof/Laws/Memory.lean ====
section
/-! SUPPORT. The laws of memory: read after write, the canonical form kept, and equal reads make equal memories. -/

namespace Sys2Proof.Machine

/-- Addresses strictly rising: the part of the canonical form that reading after writing needs. -/
abbrev Memory.Sorted (m : List Host.Cell) : Prop := m.Pairwise fun c d => c.1 < d.1

theorem Memory.wf.sorted {p : Params} {m : List Host.Cell} (h : Memory.wf p m) : Memory.Sorted m := h.1

@[simp] theorem Memory.read_nil (bg : Nat → Byte) (a : Nat) : Memory.read bg [] a = bg a := rfl

theorem Memory.read_cons (bg : Nat → Byte) (b : Nat) (u : Byte) (m : List Host.Cell) (a : Nat) :
    Memory.read bg ((b, u) :: m) a = if a = b then u else Memory.read bg m a := rfl

/-- An address below every listed one reads as the background. -/
theorem Memory.read_of_lt (bg : Nat → Byte) (m : List Host.Cell) (a : Nat) (h : ∀ c ∈ m, a < c.1) :
    Memory.read bg m a = bg a := by
  induction m with
  | nil => rfl
  | cons c m ih =>
    obtain ⟨b, u⟩ := c
    have hb : a < b := h (b, u) (by simp)
    rw [Memory.read_cons, if_neg (by omega), ih fun c hc => h c (by simp [hc])]

/-- A read after a write gives the value written at that address, and what was there before elsewhere. -/
theorem Memory.read_write (bg : Nat → Byte) (m : List Host.Cell) (a : Nat) (v : Byte) (hm : Memory.Sorted m) (a' : Nat) :
    Memory.read bg (Memory.write bg m a v) a' = if a' = a then v else Memory.read bg m a' := by
  induction m with
  | nil =>
    unfold Memory.write
    split <;> rename_i hv
    · by_cases e : a' = a <;> simp [e, hv]
    · rw [Memory.read_cons]
  | cons c m ih =>
    obtain ⟨b, u⟩ := c
    obtain ⟨hlt, hs⟩ := List.pairwise_cons.mp hm
    unfold Memory.write
    split
    · rename_i hab
      split
      · rename_i hv
        by_cases e : a' = a
        · subst e
          rw [if_pos rfl, hv]
          exact Memory.read_of_lt bg _ _ fun d hd => by
            rcases List.mem_cons.mp hd with rfl | hd
            · exact hab
            · exact Nat.lt_trans hab (hlt d hd)
        · rw [if_neg e]
      · rw [Memory.read_cons]
    · split
      · rename_i _ hab
        subst hab
        split
        · rename_i hv
          by_cases e : a' = a
          · subst e
            rw [if_pos rfl, hv, Memory.read_of_lt bg m _ hlt]
          · rw [if_neg e, Memory.read_cons, if_neg e]
        · rw [Memory.read_cons, Memory.read_cons]
          split <;> rfl
      · rename_i h1 h2
        rw [Memory.read_cons, Memory.read_cons, ih hs]
        by_cases e : a' = b
        · rw [if_pos e, if_neg (by omega), if_pos e]
        · rw [if_neg e, if_neg e]

/-- Whatever bounds every listed address and the written one bounds every address listed afterwards. -/
theorem Memory.write_mem {bg : Nat → Byte} {m : List Host.Cell} {a : Nat} {v : Byte} {c : Host.Cell}
    (h : c ∈ Memory.write bg m a v) : c ∈ m ∨ (c = (a, v) ∧ v ≠ bg a) := by
  induction m with
  | nil =>
    unfold Memory.write at h
    split at h
    · cases h
    · exact .inr ⟨List.mem_singleton.mp h, ‹_›⟩
  | cons d m ih =>
    obtain ⟨b, u⟩ := d
    unfold Memory.write at h
    split at h
    · split at h
      · exact .inl h
      · rcases List.mem_cons.mp h with h | h
        · exact .inr ⟨h, ‹_›⟩
        · exact .inl h
    · split at h
      · split at h
        · exact .inl (List.mem_cons_of_mem _ h)
        · rcases List.mem_cons.mp h with h | h
          · exact .inr ⟨h, ‹_›⟩
          · exact .inl (List.mem_cons_of_mem _ h)
      · rcases List.mem_cons.mp h with h | h
        · exact .inl (h ▸ List.mem_cons_self)
        · exact (ih h).imp_left (List.mem_cons_of_mem _)

theorem Memory.sorted_write (bg : Nat → Byte) (m : List Host.Cell) (a : Nat) (v : Byte) (hm : Memory.Sorted m) :
    Memory.Sorted (Memory.write bg m a v) := by
  induction m with
  | nil => unfold Memory.write; split <;> simp [Memory.Sorted]
  | cons d m ih =>
    obtain ⟨b, u⟩ := d
    obtain ⟨hlt, hs⟩ := List.pairwise_cons.mp hm
    unfold Memory.write
    split
    · rename_i hab
      split
      · exact hm
      · refine List.pairwise_cons.mpr ⟨fun d hd => ?_, hm⟩
        rcases List.mem_cons.mp hd with rfl | hd
        · exact hab
        · exact Nat.lt_trans hab (hlt d hd)
    · split
      · rename_i hab
        split
        · exact hs
        · exact List.pairwise_cons.mpr ⟨fun d hd => hab ▸ hlt d hd, hs⟩
      · refine List.pairwise_cons.mpr ⟨fun d hd => ?_, ih hs⟩
        rcases Memory.write_mem hd with hd | ⟨rfl, -⟩
        · exact hlt d hd
        · show b < a
          omega

/-- A write inside the address space keeps the canonical form. -/
theorem Memory.wf_write {p : Params} {m : List Host.Cell} (hm : Memory.wf p m) {a : Nat} (ha : a < Config.memSize)
    (v : Byte) : Memory.wf p (Memory.write (background p) m a v) := by
  refine ⟨Memory.sorted_write _ m a v hm.1, fun c hc => ?_⟩
  rcases Memory.write_mem hc with hc | ⟨rfl, hv⟩
  · exact hm.2 c hc
  · exact ⟨ha, hv⟩

theorem Memory.sorted_writeAll (bg : Nat → Byte) (m : List Host.Cell) (a : Nat) (bytes : List Byte)
    (hm : Memory.Sorted m) : Memory.Sorted (Memory.writeAll bg m a bytes) := by
  induction bytes generalizing m a with
  | nil => exact hm
  | cons b rest ih => exact ih _ _ (Memory.sorted_write bg m a b hm)

/-- A block write inside the address space keeps the canonical form. -/
theorem Memory.wf_writeAll {p : Params} {m : List Host.Cell} (hm : Memory.wf p m) {a : Nat} (bytes : List Byte)
    (ha : a + bytes.length ≤ Config.memSize) : Memory.wf p (Memory.writeAll (background p) m a bytes) := by
  induction bytes generalizing m a with
  | nil => exact hm
  | cons b rest ih =>
    rw [List.length_cons] at ha
    exact ih (Memory.wf_write hm (by omega) b) (by omega)

/-- What a block write does: the written range reads as the bytes, every other address as before. -/
theorem Memory.read_writeAll (bg : Nat → Byte) (m : List Host.Cell) (a : Nat) (bytes : List Byte)
    (hm : Memory.Sorted m) (a' : Nat) :
    Memory.read bg (Memory.writeAll bg m a bytes) a' =
      if h : a ≤ a' ∧ a' - a < bytes.length then bytes[a' - a]'h.2 else Memory.read bg m a' := by
  induction bytes generalizing m a with
  | nil => simp [Memory.writeAll]
  | cons b rest ih =>
    rw [Memory.writeAll, ih _ _ (Memory.sorted_write bg m a b hm), Memory.read_write bg m a b hm]
    by_cases e : a' = a
    · subst e
      simp
    · by_cases h : a + 1 ≤ a' ∧ a' - (a + 1) < rest.length
      · have h' : a ≤ a' ∧ a' - a < (b :: rest).length := by
          rw [List.length_cons]
          omega
        have hk : a' - a = a' - (a + 1) + 1 := by omega
        rw [dif_pos h, dif_pos h']
        simp [hk]
      · have h' : ¬ (a ≤ a' ∧ a' - a < (b :: rest).length) := by
          rw [List.length_cons]
          omega
        rw [dif_neg h, dif_neg h', if_neg e]

/-- In the canonical form, equal reads make equal memories. -/
theorem Memory.wf_ext {p : Params} {m m' : List Host.Cell} (hm : Memory.wf p m) (hm' : Memory.wf p m')
    (h : ∀ a, Memory.read (background p) m a = Memory.read (background p) m' a) : m = m' := by
  induction m generalizing m' with
  | nil =>
    cases m' with
    | nil => rfl
    | cons c m' =>
      obtain ⟨b, u⟩ := c
      have := h b
      rw [Memory.read_cons, if_pos rfl, Memory.read_nil] at this
      exact absurd this.symm (hm'.2 (b, u) (by simp)).2
  | cons c m ih =>
    obtain ⟨b, u⟩ := c
    obtain ⟨hlt, hs⟩ := List.pairwise_cons.mp hm.1
    cases m' with
    | nil =>
      have := h b
      rw [Memory.read_cons, if_pos rfl, Memory.read_nil] at this
      exact absurd this (hm.2 (b, u) (by simp)).2
    | cons c' m' =>
      obtain ⟨b', u'⟩ := c'
      obtain ⟨hlt', hs'⟩ := List.pairwise_cons.mp hm'.1
      have hb : b = b' := by
        rcases Nat.lt_trichotomy b b' with hl | he | hl
        · have := h b
          rw [Memory.read_cons, if_pos rfl, Memory.read_of_lt _ _ b fun d hd => by
            rcases List.mem_cons.mp hd with rfl | hd
            · exact hl
            · exact Nat.lt_trans hl (hlt' d hd)] at this
          exact absurd this (hm.2 (b, u) (by simp)).2
        · exact he
        · have := h b'
          rw [Memory.read_cons _ b' u', if_pos rfl, Memory.read_of_lt _ _ b' fun d hd => by
            rcases List.mem_cons.mp hd with rfl | hd
            · exact hl
            · exact Nat.lt_trans hl (hlt d hd)] at this
          exact absurd this.symm (hm'.2 (b', u') (by simp)).2
      subst hb
      have hu : u = u' := by
        have := h b
        rwa [Memory.read_cons, if_pos rfl, Memory.read_cons, if_pos rfl] at this
      subst hu
      have hm2 : Memory.wf p m := ⟨hs, fun d hd => hm.2 d (List.mem_cons_of_mem _ hd)⟩
      have hm2' : Memory.wf p m' := ⟨hs', fun d hd => hm'.2 d (List.mem_cons_of_mem _ hd)⟩
      rw [ih hm2 hm2' fun a => ?_]
      by_cases e : a = b
      · subst e
        rw [Memory.read_of_lt _ m a hlt, Memory.read_of_lt _ m' a hlt']
      · have := h a
        rwa [Memory.read_cons, if_neg e, Memory.read_cons, if_neg e] at this

/-! The same for the state. -/

theorem State.readByte_writeByte (s : State) (hs : Memory.wf s.params s.mem) (a : Nat) (v : Byte) (a' : Nat) :
    (s.writeByte a v).readByte a' = if a' = a then v else s.readByte a' :=
  Memory.read_write _ _ a v hs.1 a'

/-- What a block write does to every address (the spec lemma of `writeBytes`). -/
theorem State.readByte_writeBytes (s : State) (hs : Memory.wf s.params s.mem) (a : Nat) (bytes : List Byte) (a' : Nat) :
    (s.writeBytes a bytes).readByte a' =
      if h : a ≤ a' ∧ a' - a < bytes.length then bytes[a' - a]'h.2 else s.readByte a' :=
  Memory.read_writeAll _ _ a bytes hs.1 a'

theorem State.wf_writeBytes (s : State) (hs : Memory.wf s.params s.mem) (a : Nat) (bytes : List Byte)
    (ha : a + bytes.length ≤ Config.memSize) : Memory.wf s.params (s.writeBytes a bytes).mem :=
  Memory.wf_writeAll hs bytes ha

/-- A fresh engine's memory lists nothing, so it reads as the background. -/
@[simp] theorem State.readByte_fresh (params : Params) (a : Nat) : (State.fresh params).readByte a = background params a :=
  rfl

theorem State.wf_fresh (params : Params) : Memory.wf (State.fresh params).params (State.fresh params).mem :=
  ⟨List.Pairwise.nil, fun _ hc => nomatch hc⟩

/-- Above the fonts the background is zero. -/
theorem background_of_le (p : Params) (a : Nat) (h : 240 ≤ a) : background p a = 0 := by
  unfold background
  rw [dif_neg (by omega), dif_neg (by omega)]

@[simp] theorem State.length_readBytes (s : State) (a len : Nat) : (s.readBytes a len).length = len := by
  simp [State.readBytes]

@[simp] theorem State.getElem_readBytes (s : State) (a len k : Nat) (h : k < (s.readBytes a len).length) :
    (s.readBytes a len)[k] = s.readByte (a + k) := by
  simp [State.readBytes]

end Sys2Proof.Machine
end

