-- ==== Sys2Proof/Laws/Ops.lean ====
section
/-! SUPPORT. One lemma per shared operation, saying once everything it can do; later proofs cite these instead of
unfolding the operation. -/

namespace Sys2Proof.Machine

/-! ## Failing, guards, stack -/

/-- Failing always answers a next state: the report set and nothing else changed. -/
@[simp] theorem State.fail_eq (s : State) (f : Failure) : s.fail f = .next { s with report := some f } := rfl

/-- An indexed access either performs the access, its range being in memory, or fails with `OutOfBounds`. -/
theorem State.accessIndexed_cases (s : State) (len : Nat) (access : State → Result) :
    (s.I.toNat + len ≤ 4096 ∧ s.accessIndexed len access = access s) ∨
      (4096 < s.I.toNat + len ∧ s.accessIndexed len access = .next { s with report := some (.outOfBounds s.I len) }) := by
  unfold State.accessIndexed State.inBounds
  by_cases h : s.I.toNat + len ≤ 4096
  · exact .inl ⟨h, if_pos (by simpa using h)⟩
  · exact .inr ⟨by omega, if_neg (by simpa using h)⟩

theorem State.accessIndexed_in (s : State) (len : Nat) (access : State → Result) (h : s.I.toNat + len ≤ 4096) :
    s.accessIndexed len access = access s := by
  rcases s.accessIndexed_cases len access with h' | h'
  · exact h'.2
  · omega

theorem State.accessIndexed_out (s : State) (len : Nat) (access : State → Result) (h : 4096 < s.I.toNat + len) :
    s.accessIndexed len access = .next { s with report := some (.outOfBounds s.I len) } := by
  rcases s.accessIndexed_cases len access with h' | h'
  · omega
  · exact h'.2

/-- A push either pushes, or fails with `StackOverflow` on a full stack. -/
theorem State.push_cases (s : State) (v : Word) (andThen : State → Result) :
    (s.stack.length < 16 ∧ s.push v andThen = andThen (s.setStack (v :: s.stack))) ∨
      (16 ≤ s.stack.length ∧ s.push v andThen = .next { s with report := some .stackOverflow }) := by
  unfold State.push
  by_cases h : s.stack.length < 16
  · exact .inl ⟨h, if_pos h⟩
  · exact .inr ⟨by omega, if_neg h⟩

/-- A pop either pops the most recent entry, or fails with `StackUnderflow` on an empty stack. -/
theorem State.pop_cases (s : State) (andThen : Word → State → Result) :
    (∃ v rest, s.stack = v :: rest ∧ s.pop andThen = andThen v (s.setStack rest)) ∨
      (s.stack = [] ∧ s.pop andThen = .next { s with report := some .stackUnderflow }) := by
  unfold State.pop
  split
  · exact .inr ⟨‹_›, rfl⟩
  · exact .inl ⟨_, _, ‹_›, rfl⟩

/-- The fetch: the big-endian word at `pc`, or nothing past the end of memory. -/
theorem State.fetch_cases (s : State) :
    (s.pc.toNat ≤ 0xFFE ∧ s.fetch = some (s.readByte s.pc.toNat ++ s.readByte (s.pc.toNat + 1))) ∨
      (0xFFE < s.pc.toNat ∧ s.fetch = none) := by
  unfold State.fetch
  by_cases h : s.pc.toNat + 1 > 0xFFF
  · exact .inr ⟨by omega, if_pos h⟩
  · exact .inl ⟨by omega, if_neg h⟩

/-- A conditional skip moves `pc` and nothing else. -/
theorem State.skipIf_eq (s : State) (cond : Bool) :
    s.skipIf cond = { s with pc := if cond then s.pc + 2 else s.pc } := by
  cases cond <;> rfl

/-- The post-increment adds the count to `I` under the quirk, and does nothing otherwise. -/
theorem State.postIncrement_cases (s : State) (count : Nat) :
    (s.params.jumpingQuirk = true ∧ s.postIncrement count = s.setI (s.I + BitVec.ofNat 16 count)) ∨
      (s.params.jumpingQuirk = false ∧ s.postIncrement count = s) := by
  unfold State.postIncrement
  cases h : s.params.jumpingQuirk
  · exact .inr ⟨rfl, rfl⟩
  · exact .inl ⟨rfl, rfl⟩

/-- The post-increment moves `I` at most. -/
theorem State.postIncrement_frame (s : State) (count : Nat) :
    s.postIncrement count = { s with I := (s.postIncrement count).I } := by
  rcases s.postIncrement_cases count with ⟨-, h⟩ | ⟨-, h⟩
  · rw [h]
    rfl
  · rw [h]

/-! ## Registers -/

/-- A register reads as the value just written to it, every other register as before. -/
theorem State.reg_setReg (s : State) (x y : RegIdx) (b : Byte) :
    (s.setReg x b).reg y = if y = x then b else s.reg y := by
  show (s.V.set x.toNat b x.isLt)[y.toNat]'y.isLt = _
  rw [Vector.getElem_set]
  by_cases h : y = x
  · subst h
    simp
  · rw [if_neg h, if_neg fun h' => h (BitVec.eq_of_toNat_eq h'.symm)]
    rfl

@[simp] theorem State.reg_setReg_same (s : State) (x : RegIdx) (b : Byte) : (s.setReg x b).reg x = b := by
  rw [State.reg_setReg, if_pos rfl]

/-- The flag write lands last: register 15 reads as the flag, register `x ≠ 15` as the result. -/
theorem State.reg_setRegFlag (s : State) (x y : RegIdx) (result flag : Byte) :
    (s.setRegFlag x result flag).reg y = if y = VF then flag else if y = x then result else s.reg y := by
  unfold State.setRegFlag
  rw [State.reg_setReg, State.reg_setReg]

theorem State.setRegFlag_eq (s : State) (x : RegIdx) (result flag : Byte) :
    s.setRegFlag x result flag = { s with V := (s.V.set x.toNat result x.isLt).set 15 flag } := rfl

/-- A logic result: the register, and register 15 cleared last under the quirk. -/
theorem State.setRegLogic_cases (s : State) (x : RegIdx) (result : Byte) :
    (s.params.vfResetQuirk = true ∧ s.setRegLogic x result = s.setRegFlag x result 0) ∨
      (s.params.vfResetQuirk = false ∧ s.setRegLogic x result = s.setReg x result) := by
  unfold State.setRegLogic
  cases h : s.params.vfResetQuirk
  · exact .inr ⟨rfl, rfl⟩
  · exact .inl ⟨rfl, rfl⟩

/-- A block load writes the registers from `k` on with the bytes, and no other. -/
theorem getElem_loadRegs (V : Vector Byte 16) (k : Nat) (bytes : List Byte) (i : Nat) (hi : i < 16) :
    (loadRegs V k bytes)[i] = if h : k ≤ i ∧ i - k < bytes.length then bytes[i - k]'h.2 else V[i] := by
  induction bytes generalizing V k with
  | nil => simp [loadRegs]
  | cons b rest ih =>
    rw [loadRegs, ih]
    by_cases e : k = i
    · subst e
      simp [hi]
    · by_cases h : k + 1 ≤ i ∧ i - (k + 1) < rest.length
      · have h' : k ≤ i ∧ i - k < (b :: rest).length := by
          rw [List.length_cons]
          omega
        have hk : i - k = i - (k + 1) + 1 := by omega
        rw [dif_pos h, dif_pos h']
        simp [hk]
      · have h' : ¬ (k ≤ i ∧ i - k < (b :: rest).length) := by
          rw [List.length_cons]
          omega
        rw [dif_neg h, dif_neg h']
        by_cases hk : k < 16
        · rw [dif_pos hk, Vector.getElem_set, if_neg e]
        · rw [dif_neg hk]

@[simp] theorem State.length_regBlock (s : State) (x : RegIdx) : (s.regBlock x).length = x.toNat + 1 := by
  have := x.isLt
  simp [State.regBlock]
  omega

@[simp] theorem State.getElem_regBlock (s : State) (x : RegIdx) (k : Nat) (h : k < (s.regBlock x).length) :
    (s.regBlock x)[k] = s.V[k]'(by rw [State.length_regBlock] at h; have := x.isLt; omega) := by
  simp [State.regBlock]

/-! ## The framebuffer -/

/-- A cell of the framebuffer reads as the other value after it is toggled, every other cell as before. -/
theorem Framebuffer.lit_toggle (fb : Framebuffer) (c r c' r' : Nat) (hc : c < 128) (hr : r < 64) :
    Framebuffer.lit (Framebuffer.toggle fb c r) c' r' =
      if c' = c ∧ r' = r then !Framebuffer.lit fb c r else Framebuffer.lit fb c' r' := by
  unfold Framebuffer.toggle Framebuffer.lit
  have hcr : c < 128 ∧ r < 64 := ⟨hc, hr⟩
  simp only [dif_pos hcr]
  by_cases h : c' < 128 ∧ r' < 64
  · rw [dif_pos h, dif_pos h]
    by_cases ec : c' = c
    · subst ec
      by_cases er : r' = r
      · subst er
        simp
      · simp [er, Ne.symm er]
    · simp [ec, Ne.symm ec]
  · rw [dif_neg h, dif_neg h, if_neg (by omega)]

@[simp] theorem Framebuffer.lit_cleared (c r : Nat) : Framebuffer.lit Framebuffer.cleared c r = false := by
  unfold Framebuffer.lit Framebuffer.cleared
  split <;> simp

/-- Two framebuffers with the same cells are equal. -/
theorem Framebuffer.ext_lit (fb fb' : Framebuffer)
    (h : ∀ c r, c < 128 → r < 64 → Framebuffer.lit fb c r = Framebuffer.lit fb' c r) : fb = fb' := by
  apply Vector.ext
  intro c hc
  apply Vector.ext
  intro r hr
  have := h c r hc hr
  unfold Framebuffer.lit at this
  rwa [dif_pos ⟨hc, hr⟩, dif_pos ⟨hc, hr⟩] at this

/-- What the compositor does with distinct cells of the storage, from any accumulator: exactly those cells are toggled,
and a collision is recorded when one of them was lit. -/
theorem foldl_plot (cells : List (Nat × Nat)) (fb : Framebuffer) (hit : Bool) (hn : cells.Nodup)
    (hb : ∀ p ∈ cells, p.1 < 128 ∧ p.2 < 64) :
    (∀ c r, Framebuffer.lit (cells.foldl plot (fb, hit)).1 c r = (Framebuffer.lit fb c r ^^ decide ((c, r) ∈ cells))) ∧
      (cells.foldl plot (fb, hit)).2 = (hit || decide (∃ p ∈ cells, Framebuffer.lit fb p.1 p.2 = true)) := by
  induction cells generalizing fb hit with
  | nil => simp
  | cons p cells ih =>
    obtain ⟨hp, hn⟩ := List.nodup_cons.mp hn
    obtain ⟨hc, hr⟩ := hb p (by simp)
    obtain ⟨ih1, ih2⟩ := ih (Framebuffer.toggle fb p.1 p.2) (hit || Framebuffer.lit fb p.1 p.2) hn
      fun q hq => hb q (by simp [hq])
    refine ⟨fun c r => ?_, ?_⟩
    · rw [List.foldl_cons, plot, ih1, Framebuffer.lit_toggle fb _ _ _ _ hc hr]
      by_cases e : c = p.1 ∧ r = p.2
      · obtain ⟨rfl, rfl⟩ := e
        simp [hp]
      · have : (c, r) ≠ p := fun h => e (by simp [← h])
        simp [e, this]
    · rw [List.foldl_cons, plot, ih2]
      have : (∃ q ∈ cells, Framebuffer.lit (Framebuffer.toggle fb p.1 p.2) q.1 q.2 = true) ↔
          ∃ q ∈ cells, Framebuffer.lit fb q.1 q.2 = true := by
        refine exists_congr fun q => and_congr_right fun hq => ?_
        have hne : ¬ (q.1 = p.1 ∧ q.2 = p.2) := fun h => hp (Prod.ext h.1 h.2 ▸ hq)
        rw [Framebuffer.lit_toggle fb _ _ _ _ hc hr, if_neg hne]
      simp only [this, List.exists_mem_cons_iff, Bool.decide_or, Bool.or_assoc, Bool.decide_eq_true]

/-- The compositor on distinct cells of the storage. -/
theorem composite_spec (fb : Framebuffer) (cells : List (Nat × Nat)) (hn : cells.Nodup)
    (hb : ∀ p ∈ cells, p.1 < 128 ∧ p.2 < 64) :
    (∀ c r, Framebuffer.lit (composite fb cells).1 c r = (Framebuffer.lit fb c r ^^ decide ((c, r) ∈ cells))) ∧
      (composite fb cells).2 = decide (∃ p ∈ cells, Framebuffer.lit fb p.1 p.2 = true) := by
  have h := foldl_plot cells fb false hn hb
  rwa [Bool.false_or] at h

/-! ## Keys -/

theorem State.pressed_eq (s : State) (k : Nat) (h : k < 16) : s.pressed k = s.key[k] := dif_pos h

/-- The lowest pressed key: pressed, with no pressed key below it; or no key is pressed. -/
theorem State.lowestPressed_cases (s : State) :
    (∃ k, s.lowestPressed = some k ∧ k < 16 ∧ s.pressed k = true ∧ ∀ j < k, s.pressed j = false) ∨
      (s.lowestPressed = none ∧ ∀ k < 16, s.pressed k = false) := by
  unfold State.lowestPressed
  cases h : (List.range 16).find? fun k => s.pressed k with
  | none =>
    refine .inr ⟨rfl, fun k hk => ?_⟩
    have := List.find?_eq_none.mp h k (List.mem_range.mpr hk)
    simpa using this
  | some k =>
    obtain ⟨hk, hlt, hmin⟩ := List.find?_range_eq_some.mp h
    exact .inl ⟨k, rfl, List.mem_range.mp hlt, hk, fun j hj => by simpa using hmin j hj⟩

end Sys2Proof.Machine
end

