-- ==== Sys2Proof/Tests/Slice0.lean ====
section
/-! SUPPORT. The model's own tests. Expected values are those of spec/95_test_vectors.md (its section is named) or are
worked out by hand from the rule named. -/

namespace Sys2Proof.Tests

open Sys2Proof.Machine

/-! The proofs below are many and short: elaborated one after another, they need one thread's stack, not a hundred. -/
set_option Elab.async false

/-! ## Helpers -/

/-- The next state of a result, if it is one. -/
def nextOf (r : Result) : Option State :=
  match r with
  | .next s => some s
  | _ => none

/-- The refusal of a result, if it is one. -/
def refusalOf (r : Result) : Option Refusal :=
  match r with
  | .refused why => some why
  | _ => none

/-- The fault of a result, if it is one. -/
def faultOf (r : Result) : Option Fault :=
  match r with
  | .fault why => some why
  | _ => none

/-- A result that is a next state with a property. -/
theorem exists_next {r : Result} {p : State → Bool} (h : (nextOf r).any p = true) : ∃ t, r = .next t ∧ p t = true := by
  cases r with
  | next t => exact ⟨t, rfl, by simpa [nextOf] using h⟩
  | fault _ => simp [nextOf] at h
  | refused _ => simp [nextOf] at h

/-- The state with some registers set. -/
def withRegs (s : State) (rs : List (RegIdx × Byte)) : State := rs.foldl (fun t p => t.setReg p.1 p.2) s

/-- The state with both quirks on. -/
def quirky (s : State) : State := { s with params := { s.params with vfResetQuirk := true, jumpingQuirk := true } }

/-- The state in high-resolution mode. -/
def inHires (s : State) : State := { s with hires := true }

/-- The state with a key pressed. -/
def withKey (s : State) (k : RegIdx) : State := { s with key := s.key.set k.toNat true k.isLt }

/-- The step of the word `w` placed at `pc`. -/
def stepWord (s : State) (w : Nat) : Result := step (s.withFetchWord 16 w)

/-- A field of the state after the step of `w`. -/
def after {α : Type} (s : State) (w : Nat) (field : State → α) : Option α := (nextOf (stepWord s w)).map field

/-- `V[x]` and `VF` after the step of `w`. -/
def regAndFlag (s : State) (w : Nat) (x : RegIdx) : Option (Byte × Byte) := after s w fun t => (t.reg x, t.reg VF)

/-- The pair a two-register test starts from: `V1`, `V2`, and `VF = 55`. -/
def operands (a b : Byte) : State := withRegs State.reset [(1, a), (2, b), (VF, 0x55)]

/-! ## WellFormed: its one check refuses -/

theorem test_wf_jpOff : (Instr.jpOff 2 0x20A).WellFormed := by decide +kernel
theorem test_wf_jpOff_ill : ¬ (Instr.jpOff 3 0x20A).WellFormed := by decide +kernel

/-! ## Decoding: every constructor, by a word written from its pattern in R81 -/

theorem test_decode_system :
    decodeWord 0x00E0 = some .cls ∧ decodeWord 0x00EE = some .ret ∧ decodeWord 0x00FE = some .low ∧
      decodeWord 0x00FF = some .high := by decide +kernel
theorem test_decode_control :
    decodeWord 0x1ABC = some (.jp 0xABC) ∧ decodeWord 0x2300 = some (.call 0x300) ∧
      decodeWord 0x3342 = some (.seImm 3 0x42) ∧ decodeWord 0x4A01 = some (.sneImm 0xA 0x01) ∧
      decodeWord 0x5120 = some (.seReg 1 2) ∧ decodeWord 0x9AB0 = some (.sneReg 0xA 0xB) ∧
      decodeWord 0xB20A = some (.jpOff 2 0x20A) := by decide +kernel
theorem test_decode_loads :
    decodeWord 0x6A3E = some (.ldImm 0xA 0x3E) ∧ decodeWord 0x70FF = some (.addImm 0 0xFF) ∧
      decodeWord 0xA123 = some (.ldI 0x123) ∧ decodeWord 0xC309 = some (.rnd 3 0x09) := by decide +kernel
theorem test_decode_alu :
    decodeWord 0x8120 = some (.ldReg 1 2) ∧ decodeWord 0x8121 = some (.orReg 1 2) ∧
      decodeWord 0x8122 = some (.andReg 1 2) ∧ decodeWord 0x8123 = some (.xorReg 1 2) ∧
      decodeWord 0x8124 = some (.addReg 1 2) ∧ decodeWord 0x8125 = some (.subReg 1 2) ∧
      decodeWord 0x8AB6 = some (.shrReg 0xA 0xB) ∧ decodeWord 0x8127 = some (.subnReg 1 2) ∧
      decodeWord 0x812E = some (.shlReg 1 2) := by decide +kernel
theorem test_decode_draw_keys :
    decodeWord 0xD12F = some (.drw 1 2 0xF) ∧ decodeWord 0xE39E = some (.skp 3) ∧
      decodeWord 0xE3A1 = some (.sknp 3) := by decide +kernel
theorem test_decode_misc :
    decodeWord 0xF507 = some (.ldVxDt 5) ∧ decodeWord 0xF30A = some (.ldVxK 3) ∧ decodeWord 0xF315 = some (.ldDtVx 3) ∧
      decodeWord 0xF318 = some (.ldStVx 3) ∧ decodeWord 0xF11E = some (.addIVx 1) := by decide +kernel
theorem test_decode_misc_memory :
    decodeWord 0xF029 = some (.ldFVx 0) ∧ decodeWord 0xF030 = some (.ldHfVx 0) ∧ decodeWord 0xF033 = some (.ldBVx 0) ∧
      decodeWord 0xF255 = some (.ldMemVx 2) ∧ decodeWord 0xF265 = some (.ldVxMem 2) := by decide +kernel
/-- Section 2.2. -/
theorem test_decode_bad :
    [0x00E1, 0x01E0, 0x0000, 0x0123, 0x00FD, 0x00C1, 0x5121, 0x9ABF, 0x8008, 0x800D, 0x800F, 0xE09F, 0xF000,
      0xF075].map decodeWord = List.replicate 14 none := by decide +kernel
theorem test_decode_bytes_big_endian :
    decodeTableWord 16 0x6A3E = some (.ldImm 0xA 0x3E) ∧ decodeTableWord 16 0x00E1 = none := by decide +kernel

/-! ## Step and fetch (section 2.3) -/

theorem test_step_last_word :
    after { State.reset with pc := 0xFFE } 0x6012 (fun t => (t.reg 0, t.pc, t.report)) = some (0x12, 0x1000, none) := by
  decide +kernel
theorem test_step_odd_pc :
    after { State.reset with pc := 0x201 } 0x6107 (fun t => (t.reg 1, t.pc)) = some (0x07, 0x203) := by decide +kernel
theorem test_step_past_memory :
    (nextOf (step { State.reset with pc := 0xFFF })).map (fun t => (t.pc, t.report)) =
      some (0xFFF, some (.badProgramCounter 0xFFF)) := by decide +kernel
theorem test_step_bad_word :
    after State.reset 0x5121 (fun t => (t.pc, t.report)) = some (0x202, some (.badInstruction 0x5121 0x202)) := by
  decide +kernel

/-! ## Control flow (section 2.4) -/

theorem test_ret : after { State.reset with stack := [0x40A, 0x202] } 0x00EE (fun t => (t.pc, t.stack)) =
    some (0x40A, [0x202]) := by decide +kernel
/-- E7. -/
theorem test_ret_underflow : after State.reset 0x00EE (fun t => (t.pc, t.report)) =
    some (0x202, some .stackUnderflow) := by decide +kernel
theorem test_jp : after State.reset 0x1ABC (·.pc) = some 0xABC := by decide +kernel
theorem test_call : after { State.reset with stack := List.replicate 15 0x400 } 0x2300
    (fun t => (t.pc, t.stack.head?, t.stack.length)) = some (0x300, some 0x202, 16) := by decide +kernel
theorem test_call_overflow : after { State.reset with stack := List.replicate 16 0x400 } 0x2300
    (fun t => (t.pc, t.stack, t.report)) = some (0x202, List.replicate 16 0x400, some .stackOverflow) := by
  decide +kernel
theorem test_seImm : after State.reset 0x3000 (·.pc) = some 0x204 ∧ after State.reset 0x3001 (·.pc) = some 0x202 := by
  decide +kernel
theorem test_sneImm : after State.reset 0x4000 (·.pc) = some 0x202 ∧ after State.reset 0x4001 (·.pc) = some 0x204 := by
  decide +kernel
theorem test_seReg : after State.reset 0x5000 (·.pc) = some 0x204 ∧
    after (operands 1 2) 0x5120 (·.pc) = some 0x202 := by decide +kernel
theorem test_sneReg : after State.reset 0x9000 (·.pc) = some 0x202 ∧
    after (operands 1 2) 0x9120 (·.pc) = some 0x204 := by decide +kernel
theorem test_jpOff : after (withRegs State.reset [(2, 0x10)]) 0xB20A (·.pc) = some 0x21A ∧
    after (withRegs State.reset [(VF, 0xFF)]) 0xBFFF (·.pc) = some 0x10FE := by decide +kernel

/-! ## ALU (section 2.5) -/

theorem test_ldImm : regAndFlag (operands 0 0) 0x613E 1 = some (0x3E, 0x55) := by decide +kernel
theorem test_addImm : regAndFlag (operands 0xFF 0) 0x71FF 1 = some (0xFE, 0x55) ∧
    regAndFlag (operands 0xFF 0) 0x7101 1 = some (0x00, 0x55) := by decide +kernel
theorem test_ldReg : regAndFlag (operands 0x00 0xAB) 0x8120 1 = some (0xAB, 0x55) := by decide +kernel
theorem test_orReg : regAndFlag (operands 0x0C 0x0A) 0x8121 1 = some (0x0E, 0x55) ∧
    regAndFlag (quirky (operands 0x0C 0x0A)) 0x8121 1 = some (0x0E, 0x00) := by decide +kernel
theorem test_andReg : regAndFlag (operands 0x0C 0x0A) 0x8122 1 = some (0x08, 0x55) ∧
    regAndFlag (quirky (operands 0x0C 0x0A)) 0x8122 1 = some (0x08, 0x00) := by decide +kernel
theorem test_xorReg : regAndFlag (operands 0x0C 0x0A) 0x8123 1 = some (0x06, 0x55) ∧
    regAndFlag (quirky (operands 0x0C 0x0A)) 0x8123 1 = some (0x06, 0x00) := by decide +kernel
/-- E2. -/
theorem test_addReg : regAndFlag (operands 0xFF 0x01) 0x8124 1 = some (0x00, 0x01) ∧
    regAndFlag (operands 0x7F 0x80) 0x8124 1 = some (0xFF, 0x00) := by decide +kernel
theorem test_addReg_into_flag : regAndFlag (withRegs State.reset [(VF, 0x10), (1, 0xF5)]) 0x8F14 VF =
    some (0x01, 0x01) := by decide +kernel
/-- E2. -/
theorem test_subReg : regAndFlag (operands 0x00 0x01) 0x8125 1 = some (0xFF, 0x00) ∧
    regAndFlag (operands 0x80 0x80) 0x8125 1 = some (0x00, 0x01) := by decide +kernel
theorem test_shrReg : regAndFlag (operands 0xFF 0x00) 0x8126 1 = some (0x7F, 0x01) ∧
    regAndFlag (operands 0x80 0x01) 0x8126 1 = some (0x40, 0x00) := by decide +kernel
/-- E2. -/
theorem test_subnReg : regAndFlag (operands 0x01 0xFF) 0x8127 1 = some (0xFE, 0x01) ∧
    regAndFlag (operands 0xFF 0x01) 0x8127 1 = some (0x02, 0x00) := by decide +kernel
theorem test_shlReg : regAndFlag (operands 0x80 0x00) 0x812E 1 = some (0x00, 0x01) ∧
    regAndFlag (operands 0x7F 0x80) 0x812E 1 = some (0xFE, 0x00) := by decide +kernel
/-- The `Cxkk` table of section 2.5: the draws `FF`, `FF`, `FF`, `10`, `C8`. -/
theorem test_rnd_limit : limitDraw 0xFF 0x0F = 0x0F ∧ limitDraw 0xFF 0xFF = 0xFF ∧ limitDraw 0xFF 0x00 = 0x00 ∧
    limitDraw 0x10 0x0E = 0x01 ∧ limitDraw 0xC8 0x09 = 0x00 := by decide +kernel
theorem test_rnd : after State.reset 0xC30F (fun t => (t.pc, t.draws)) = some (0x202, 1) := by decide +kernel

/-! ## Index and memory (section 2.6) -/

theorem test_ldI : after State.reset 0xA123 (·.I) = some 0x123 := by decide +kernel
theorem test_addIVx : after (withRegs { State.reset with I := 0xFFE } [(0, 0x01)]) 0xF01E (·.I) = some 0xFFF := by
  decide +kernel
theorem test_addIVx_overflow : after { State.reset with I := 0x1000 } 0xF01E (fun t => (t.I, t.pc, t.report)) =
    some (0x1000, 0x202, some .indexOverflow) := by decide +kernel
theorem test_ldFVx : after (withRegs State.reset [(0, 0x0F)]) 0xF029 (·.I) = some 0x4B ∧
    after (withRegs State.reset [(0, 0x10)]) 0xF029 (·.I) = some 0x50 := by decide +kernel
theorem test_ldHfVx : after (withRegs State.reset [(0, 0x0F)]) 0xF030 (·.I) = some 0xE6 := by decide +kernel
theorem test_ldBVx : after (withRegs { State.reset with I := 0xFFD } [(0, 0x7B)]) 0xF033 (·.readBytes 0xFFD 3) =
    some [0x01, 0x02, 0x03] := by decide +kernel
theorem test_ldBVx_out : after { State.reset with I := 0xFFE } 0xF033 (fun t => (t.report, t.mem.length)) =
    some (some (.outOfBounds 0xFFE 3), 2) := by decide +kernel
theorem test_ldMemVx :
    after (quirky (withRegs { State.reset with I := 0xFF0 } [(0, 0x0A), (7, 0x77), (VF, 0x1F)])) 0xFF55
      (fun t => (t.readBytes 0xFF0 16, t.I)) =
      some ([0x0A, 0, 0, 0, 0, 0, 0, 0x77, 0, 0, 0, 0, 0, 0, 0, 0x1F], 0x1000) := by decide +kernel
theorem test_ldMemVx_out : after { State.reset with I := 0xFF1 } 0xFF55 (fun t => (t.report, t.I)) =
    some (some (.outOfBounds 0xFF1 16), 0xFF1) := by decide +kernel
theorem test_ldVxMem :
    after (quirky ((withRegs { State.reset with I := 0x300 } [(2, 0x22)]).writeBytes 0x300 [0xAA, 0xBB, 0xCC])) 0xF165
      (fun t => (t.reg 0, t.reg 1, t.reg 2, t.I)) = some (0xAA, 0xBB, 0x22, 0x302) := by decide +kernel
theorem test_ldVxMem_out : after { State.reset with I := 0xFFF } 0xF165 (fun t => (t.report, t.reg 0)) =
    some (some (.outOfBounds 0xFFF 2), 0x00) := by decide +kernel
/-- Writing what an unlisted address reads as removes the entry: equal memories are equal lists. -/
theorem test_memory_canonical :
    (((State.reset.writeByte 0x300 0xAA).writeByte 0x000 0x00).writeByte 0x300 0x00).mem = [(0x000, 0x00)] ∧
      ((State.reset.writeByte 0x000 0x00).writeByte 0x000 0xF0).mem = [] := by decide +kernel

/-! ## Display (section 2.7) -/

/-- The framebuffer with one cell lit. -/
def lightCell (s : State) (c r : Nat) : State := s.setFB (Framebuffer.toggle s.FB c r)

theorem test_cls : after (lightCell (inHires State.reset) 127 63) 0x00E0
    (fun t => (decide (t.FB = State.reset.FB), t.hires)) = some (true, true) := by decide +kernel
theorem test_low : after (lightCell (inHires State.reset) 70 40) 0x00FE
    (fun t => (t.hires, Framebuffer.lit t.FB 70 40)) = some (false, true) := by decide +kernel
theorem test_high : after State.reset 0x00FF (·.hires) = some true ∧
    after (inHires State.reset) 0x00FF (·.hires) = some true := by decide +kernel

/-- A state whose sprite bytes are at `0x300`, the origin in `V0`, `V1`. -/
def drawing (s : State) (vx vy : Byte) (sprite : List Byte) : State :=
  (withRegs { s with I := 0x300 } [(0, vx), (1, vy)]).writeBytes 0x300 sprite

/-- The lit cells among some cells, and `VF`, after the step of `w`. -/
def litAfter (s : State) (w : Nat) (cells : List (Nat × Nat)) : Option (List Bool × Byte) :=
  after s w fun t => (cells.map fun p => Framebuffer.lit t.FB p.1 p.2, t.reg VF)

/-- E4: the columns 62, 63, 0 to 5 of row 0 are lit, 61 and 6 are not. -/
theorem test_drw_wraps_columns :
    litAfter (drawing State.reset 0x3E 0x00 [0xFF]) 0xD011
      [(62, 0), (63, 0), (0, 0), (1, 0), (2, 0), (3, 0), (4, 0), (5, 0), (61, 0), (6, 0), (62, 1)] =
      some ([true, true, true, true, true, true, true, true, false, false, false], 0x00) := by decide +kernel
/-- E3: the second of two equal draws clears and collides (C11). -/
theorem test_drw_collides :
    litAfter (lightCell (drawing State.reset 0x00 0x00 [0x80]) 0 0) 0xD011 [(0, 0), (1, 0)] =
      some ([false, false], 0x01) := by decide +kernel

/-! ## Keys and timers (section 2.8) -/

theorem test_skp : after (withKey (withRegs State.reset [(3, 7)]) 7) 0xE39E (·.pc) = some 0x204 ∧
    refusalOf (stepWord (withRegs State.reset [(3, 0x10)]) 0xE39E) = some .keyIndexOutOfRange := by decide +kernel
theorem test_sknp : after (withRegs State.reset [(3, 7)]) 0xE3A1 (·.pc) = some 0x204 ∧
    after (withKey (withRegs State.reset [(3, 7)]) 7) 0xE3A1 (·.pc) = some 0x202 := by decide +kernel
theorem test_ldVxK : after (withKey (withKey State.reset 9) 3) 0xF50A (fun t => (t.reg 5, t.pc)) =
    some (0x03, 0x202) := by
  decide +kernel
/-- E8. -/
theorem test_ldVxK_spins : after (withRegs State.reset [(3, 0x44)]) 0xF30A (fun t => (t.reg 3, t.pc)) =
    some (0x44, 0x200) := by decide +kernel
theorem test_ldVxDt : after { State.reset with DT := 0x3C } 0xF507 (·.reg 5) = some 0x3C := by decide +kernel
theorem test_ldDtVx : after (withRegs State.reset [(3, 7)]) 0xF315 (fun t => (t.DT, t.ST)) = some (7, 0) := by
  decide +kernel
theorem test_ldStVx : after (withRegs State.reset [(3, 7)]) 0xF318 (fun t => (t.DT, t.ST)) = some (0, 7) := by
  decide +kernel
theorem test_decrement_timer :
    ({ State.reset with DT := 0x01, ST := 0x00 }.decrementTimer).DT = 0x00 ∧
      ({ State.reset with DT := 0x01, ST := 0x00 }.decrementTimer).ST = 0x00 := by decide +kernel
theorem test_host_key_range : refusalOf (State.reset.setKey 16) = some .hostKeyIndexOutOfRange := by decide +kernel
/-- The view the host reads is the active window (R268, R201). -/
theorem test_pixel_window :
    (lightCell State.reset 63 31).readFramebuffer.pixel 63 31 = some true ∧
      State.reset.readFramebuffer.pixel 64 0 = none := by decide +kernel

/-! ## Witnesses: for every statement with hypotheses, a state and operands that meet them, with the boundary values of
each clause -/

theorem witness_DecodeInvertsEncode : (Instr.jpOff 0xF 0xFFF).WellFormed ∧ (Instr.drw 0xF 0xF 0xF).WellFormed := by decide +kernel
theorem witness_EncodeInvertsDecode : decodeWord 0x81F6 = some (.shrReg 1 0xF) := by decide +kernel
theorem witness_DecodeFollowsOpcodeTable : decodeWord 0xFF65 = some (.ldVxMem 0xF) ∧
    ∃ row ∈ opcodeTable, row.Matches 0xFF65 := by decide +kernel

/-- The word `6012` at `0xFFE`, the last address a fetch can start from. -/
def lastWord (w : Nat) : State := { State.reset with pc := 0xFFE }.withFetchWord 16 w

theorem witness_StepRunsDecodedInstruction : (lastWord 0x6012).pc.toNat ≤ 0xFFE ∧
    decodeWord ((lastWord 0x6012).readByte (lastWord 0x6012).pc.toNat ++
      (lastWord 0x6012).readByte ((lastWord 0x6012).pc.toNat + 1)) = some (.ldImm 0 0x12) := by decide +kernel
theorem witness_StepFailsOnBadWord : (lastWord 0x5121).pc.toNat ≤ 0xFFE ∧
    decodeWord ((lastWord 0x5121).readByte (lastWord 0x5121).pc.toNat ++
      (lastWord 0x5121).readByte ((lastWord 0x5121).pc.toNat + 1)) = none := by decide +kernel
theorem witness_StepFailsPastMemory : 0xFFE < ({ State.reset with pc := 0xFFF } : State).pc.toNat := by decide +kernel
/-- A fetch failure and a dispatch failure. -/
theorem witness_FailuresArePrecise :
    (∃ t, step { State.reset with pc := 0xFFF } = .next t ∧
        decide (t.report = some (.badProgramCounter 0xFFF)) = true) ∧
      ∃ t, stepWord State.reset 0x00EE = .next t ∧ decide (t.report = some .stackUnderflow) = true :=
  ⟨exists_next (by decide +kernel), exists_next (by decide +kernel)⟩

/-- What the next step of `w`, placed at `pc`, decodes. -/
def fetched (s : State) (w : Nat) : Option Instr := (s.withFetchWord 16 w).fetch.bind decodeWord

theorem witness_StepObservesAdvancedCounter :
    (fetched { State.reset with stack := List.replicate 15 0 } 0x2300 = some (.call 0x300) ∧
        ({ State.reset with stack := List.replicate 15 0 } : State).stack.length < 16) ∧
      (fetched State.reset 0x3000 = some (.seImm 0 0) ∧ State.reset.reg 0 = 0) ∧
      (fetched State.reset 0x4001 = some (.sneImm 0 1) ∧ State.reset.reg 0 ≠ 1) ∧
      (fetched State.reset 0x5120 = some (.seReg 1 2) ∧ State.reset.reg 1 = State.reset.reg 2) ∧
      (fetched (operands 1 2) 0x9120 = some (.sneReg 1 2) ∧ (operands 1 2).reg 1 ≠ (operands 1 2).reg 2) := by
  decide +kernel
theorem witness_StepObservesAdvancedCounter_keys :
    (fetched (withKey (withRegs State.reset [(3, 15)]) 15) 0xE39E = some (.skp 3) ∧
        (withKey (withRegs State.reset [(3, 15)]) 15).key[15] = true) ∧
      (fetched (withRegs State.reset [(3, 15)]) 0xE3A1 = some (.sknp 3) ∧
        (withRegs State.reset [(3, 15)]).key[15] = false) ∧
      (fetched State.reset 0xF30A = some (.ldVxK 3) ∧ ∀ k : Fin 16, State.reset.key[k] = false) ∧
      fetched State.reset 0x1FFF = some (.jp 0xFFF) := by decide +kernel
/-- The second alternative of the statement does occur. -/
theorem witness_EngineSurvivesEveryStep :
    refusalOf (stepWord (withRegs State.reset [(3, 0x10)]) 0xE3A1) = some .keyIndexOutOfRange := by decide +kernel

/-- The longest program. -/
def longest : List Byte := List.replicate 3584 0

theorem length_longest : longest.length = 3584 := List.length_replicate

theorem longest_constructs (params : Params) : ∃ s, construct longest params = .next s :=
  ⟨_, if_neg (by rw [length_longest]; decide)⟩
theorem witness_ConstructMeetsInvariant : ∃ s, construct longest Config.defaultParams = .next s :=
  longest_constructs _

/-- A state at the bounds of the invariant. -/
def boundary : State := { State.reset with pc := 0x10FE, I := 0x1000, stack := List.replicate 16 0x1000 }

theorem boundary_inv : boundary.Inv :=
  ⟨by decide, by decide, fun v hv => by rw [List.eq_of_mem_replicate hv]; decide, by decide, by decide⟩

/-- A state inside the invariant whose step runs an instruction. -/
def inside : State := { State.reset with I := 0x300, stack := [0x20A] }.withFetchWord 16 0x00EE

theorem inside_inv : inside.Inv :=
  ⟨by decide +kernel, by decide, fun v hv => by rw [List.mem_singleton.mp hv]; decide, by decide, by decide⟩

theorem witness_StepKeepsInvariant : inside.Inv ∧ boundary.Inv ∧ (∃ t, step inside = .next t ∧ true = true) ∧
    ∃ t, step boundary = .next t ∧ true = true :=
  ⟨inside_inv, boundary_inv, exists_next (by decide +kernel), exists_next (by decide +kernel)⟩

/-- Every call of the host. -/
def everyCall : List HostCall := [.step, .decrementTimer, .setKey 15, .clearKey 0, .readFramebuffer]

theorem witness_HostScheduleKeepsInvariant :
    inside.Inv ∧ ∃ t, inside.runSchedule everyCall = .next t ∧ true = true :=
  ⟨inside_inv, exists_next (by decide +kernel)⟩
theorem witness_ConfigurationNeverChanges : (∃ t, State.reset.runSchedule everyCall = .next t ∧ true = true) ∧
    ∃ t, step State.reset = .next t ∧ true = true :=
  ⟨exists_next (by decide +kernel), exists_next (by decide +kernel)⟩

/-- Each piece of state is in fact written by the instructions the statement names. -/
theorem witness_OnlyNamedInstructionsWriteState :
    (∃ t, exec (.call 0x300) State.reset = .next t ∧ decide (t.stack ≠ State.reset.stack) = true) ∧
      (∃ t, exec .high State.reset = .next t ∧ decide (t.hires ≠ State.reset.hires) = true) ∧
      (∃ t, exec (.drw 0 0 1) State.reset = .next t ∧ decide (t.FB ≠ State.reset.FB) = true) ∧
      (∃ t, exec (.ldMemVx 0) State.reset = .next t ∧ decide (t.mem ≠ State.reset.mem) = true) ∧
      (∃ t, exec (.ldI 0x300) State.reset = .next t ∧ decide (t.I ≠ State.reset.I) = true) ∧
      ∃ t, exec (.rnd 0 0) State.reset = .next t ∧ decide (t.draws ≠ State.reset.draws) = true :=
  ⟨exists_next (by decide +kernel), exists_next (by decide +kernel), exists_next (by decide +kernel),
    exists_next (by decide +kernel), exists_next (by decide +kernel), exists_next (by decide +kernel)⟩
theorem witness_OnlyNamedInstructionsWriteState_timers :
    (∃ t, exec (.ldDtVx VF) (operands 0 0) = .next t ∧ decide (t.DT ≠ (operands 0 0).DT) = true) ∧
      (∃ t, exec (.ldStVx VF) (operands 0 0) = .next t ∧ decide (t.ST ≠ (operands 0 0).ST) = true) ∧
      ∃ t, exec (.ldVxMem 0) (quirky State.reset) = .next t ∧ decide (t.I ≠ State.reset.I) = true :=
  ⟨exists_next (by decide +kernel), exists_next (by decide +kernel), exists_next (by decide +kernel)⟩
theorem witness_RegisterWritesFollowTheTable :
    ∃ t, exec (.ldImm 3 7) State.reset = .next t ∧ decide (t.reg 3 ≠ State.reset.reg 3) = true :=
  exists_next (by decide +kernel)

theorem witness_CallPushesReturnAddress :
    ({ State.reset with stack := List.replicate 15 0 } : State).stack.length < 16 ∧
      ({ State.reset with stack := List.replicate 16 0 } : State).stack.length = 16 := by decide +kernel
theorem witness_ReturnPopsMostRecent :
    ({ State.reset with stack := [0x40A, 0x202] } : State).stack = 0x40A :: [0x202] ∧ State.reset.stack = [] := by decide +kernel
theorem witness_LogicOperationsUnderQuirk (x y : RegIdx) :
    (Instr.orReg x y, or) ∈ [(Instr.orReg x y, or), (Instr.andReg x y, and), (Instr.xorReg x y, xor)] ∧
      (Instr.andReg x y, and) ∈ [(Instr.orReg x y, or), (Instr.andReg x y, and), (Instr.xorReg x y, xor)] ∧
      (Instr.xorReg x y, xor) ∈ [(Instr.orReg x y, or), (Instr.andReg x y, and), (Instr.xorReg x y, xor)] := by simp
/-- `0xFFE + 1` and `0xFFF + 1`. -/
theorem witness_IndexAddFailsPastMemory :
    (withRegs { State.reset with I := 0xFFE } [(0, 1)]).I.toNat +
          ((withRegs { State.reset with I := 0xFFE } [(0, 1)]).reg 0).toNat ≤ 0xFFF ∧
      0xFFF < (withRegs { State.reset with I := 0xFFF } [(0, 1)]).I.toNat +
          ((withRegs { State.reset with I := 0xFFF } [(0, 1)]).reg 0).toNat := by decide +kernel

/-- The state after reset with another `I`. -/
def indexed (i : Word) : State := { State.reset with I := i }

theorem witness_DecimalDigitsAreStored : Memory.wf (indexed 0xFFD).params (indexed 0xFFD).mem ∧
    (indexed 0xFFD).I.toNat + 3 ≤ 4096 ∧ Memory.wf (indexed 0xFFE).params (indexed 0xFFE).mem ∧
    4096 < (indexed 0xFFE).I.toNat + 3 := by decide +kernel
theorem witness_RegisterBlockIsStored : Memory.wf (indexed 0xFF0).params (indexed 0xFF0).mem ∧
    (indexed 0xFF0).I.toNat + (15 : RegIdx).toNat + 1 ≤ 4096 ∧ Memory.wf (indexed 0xFF1).params (indexed 0xFF1).mem ∧
    4096 < (indexed 0xFF1).I.toNat + (15 : RegIdx).toNat + 1 := by decide +kernel
theorem witness_RegisterBlockIsLoaded : (indexed 0xFFF).I.toNat + (0 : RegIdx).toNat + 1 ≤ 4096 ∧
    4096 < (indexed 0xFFF).I.toNat + (1 : RegIdx).toNat + 1 := by decide +kernel
theorem witness_StoreThenLoadRoundTrips : Memory.wf (indexed 0xFF0).params (indexed 0xFF0).mem ∧
    (indexed 0xFF0).I.toNat + (15 : RegIdx).toNat + 1 ≤ 4096 := by decide +kernel
theorem witness_FetchSeesEarlierStores : Memory.wf (indexed 0xFFE).params (indexed 0xFFE).mem ∧
    1 ≤ (1 : RegIdx).toNat ∧ (indexed 0xFFE).I.toNat + (1 : RegIdx).toNat + 1 ≤ 4096 := by decide +kernel

/-- A draw answers, and column 64 is outside the low-resolution window. -/
theorem witness_DrawStaysInActiveWindow : (∃ t, exec (.drw 0 0 1) State.reset = .next t ∧ true = true) ∧
    ¬ (64 < State.reset.activeWidth ∧ 0 < State.reset.activeHeight) :=
  ⟨exists_next (by decide +kernel), by decide⟩
/-- The last byte of memory as a one-row sprite, and the last 32 as a big sprite. -/
theorem witness_DrawTogglesSpriteCells : (indexed 0xFFF).I.toNat + (spriteShape (indexed 0xFFF).hires 1).len ≤ 4096 ∧
    (inHires (indexed 0xFE0)).I.toNat + (spriteShape (inHires (indexed 0xFE0)).hires 0).len ≤ 4096 := by decide +kernel
/-- In the state after reset the small font's first byte `F0` covers the cell `(3, 0)`, unlit or lit; column 64 is never
covered in low-resolution mode. -/
theorem witness_DrawTogglesSpriteCells_covers : State.reset.SpriteCovers 0 0 1 3 0 ∧
    Framebuffer.lit State.reset.FB 3 0 = false ∧
    (lightCell State.reset 3 0).SpriteCovers 0 0 1 3 0 ∧ Framebuffer.lit (lightCell State.reset 3 0).FB 3 0 = true :=
  ⟨⟨0, 3, by decide, by decide, by decide +kernel, by decide, by decide⟩, by decide +kernel,
    ⟨0, 3, by decide, by decide, by decide +kernel, by decide, by decide⟩, by decide +kernel⟩
theorem witness_DrawTogglesSpriteCells_uncovered : ¬ State.reset.SpriteCovers 0 0 1 64 0 := by
  rintro ⟨_, col, _, _, _, h, _⟩
  have : ((State.reset.reg 0).toNat % State.reset.activeWidth + col) % State.reset.activeWidth < 64 :=
    Nat.mod_lt _ (by decide)
  omega
theorem witness_DrawFailsPastMemory : 4096 < (indexed 0xFFF).I.toNat + (spriteShape (indexed 0xFFF).hires 2).len ∧
    4096 < (inHires (indexed 0xFE1)).I.toNat + (spriteShape (inHires (indexed 0xFE1)).hires 0).len := by decide +kernel
/-- Both kinds of sprite, and the columns 7, 8 and 15 where the clauses meet. -/
theorem witness_SpriteShapeAndBits : (¬ (State.reset.hires = true ∧ (0 : BitVec 4) = 0) ∧ 7 < 8) ∧
    ((inHires State.reset).hires = true ∧ (0 : BitVec 4) = 0 ∧ 7 < 8) ∧ (8 ≤ 8 ∧ 8 < 16) ∧ 8 ≤ 15 ∧ 15 < 16 := by
  decide +kernel
theorem witness_LowResolutionEmptyDraw : (indexed 0x1000).hires = false ∧ (indexed 0x1000).I.toNat ≤ 4096 := by decide +kernel
theorem witness_DrawTwiceRestores : (indexed 0xFFF).I.toNat + (spriteShape (indexed 0xFFF).hires 1).len ≤ 4096 := by
  decide +kernel
theorem witness_DrawTwiceRestores_unlit (c r : Nat) : Framebuffer.lit State.reset.FB c r = false :=
  Framebuffer.lit_cleared c r
theorem witness_DrawOrderIsIrrelevant : (State.reset.spriteCells 0 0 (spriteShape State.reset.hires 2)).reverse.Perm
    (State.reset.spriteCells 0 0 (spriteShape State.reset.hires 2)) := List.reverse_perm _

theorem witness_KeyTestsSkipOnLevel : ((withRegs State.reset [(3, 15)]).reg 3).toNat < 16 := by decide +kernel
theorem witness_KeyTestsRefuseAboveFifteen : 15 < ((withRegs State.reset [(3, 16)]).reg 3).toNat := by decide +kernel
/-- The keys 0 and 15, and the lower of two. -/
theorem witness_KeyWaitTakesLowestKey : (withKey State.reset 0).key[0] = true ∧
    ((withKey State.reset 15).key[15] = true ∧ ∀ j : Fin 15, (withKey State.reset 15).key[j.val] = false) ∧
    ((withKey (withKey State.reset 9) 3).key[3] = true ∧
      ∀ j : Fin 3, (withKey (withKey State.reset 9) 3).key[j.val] = false) := by decide +kernel
theorem witness_KeyWaitSpinsWithoutKey : (∀ k : Fin 16, (State.reset.withFetchWord 16 0xF30A).key[k] = false) ∧
    fetched State.reset 0xF30A = some (.ldVxK 3) := by decide +kernel
theorem witness_HostKeysWriteTheLatch : 15 < 16 ∧ 15 < 16 := by decide +kernel

theorem witness_ConstructLimitsProgramLength : 3584 < (0 :: longest).length ∧ longest.length ≤ 3584 ∧
    ([] : List Byte).length ≤ 3584 := by
  rw [List.length_cons, length_longest]
  decide
theorem witness_ConstructStartsAtTheProgram : longest.length ≤ 3584 ∧
    longest = (0 : Byte) :: 0 :: List.replicate 3582 0 ∧ ([0x12, 0x34] : List Byte).length ≤ 3584 :=
  ⟨Nat.le_of_eq length_longest, rfl, by decide⟩
theorem witness_ConstructLaysOutMemory : ∃ s, construct longest Config.defaultParams = .next s := longest_constructs _
theorem witness_ConstructResetsEveryRegister : ∃ s, construct longest Config.defaultParams = .next s :=
  longest_constructs _

/-- E6: 3585 bytes are one too many. -/
theorem test_program_too_large : construct (0 :: longest) Config.defaultParams = .fault (.programTooLarge 3585) := by
  have h : (0 :: longest).length = 3585 := by rw [List.length_cons, length_longest]
  rw [construct, if_pos (by rw [h]; decide), h]

end Sys2Proof.Tests
end

section
/-! PROOFS. What construction leaves in memory (R52, R281, R284), and where the first step fetches (R29). -/

namespace Sys2Proof.Machine

/-- A program that fits is accepted, and is written from `0x200` into a fresh engine (R281, R284). -/
theorem construct_of_length_le {program : List Byte} (params : Params) (h : program.length ≤ 3584) :
    construct program params = .next ((State.fresh params).writeBytes 0x200 program) :=
  if_neg (Nat.not_lt.mpr h)

/-- The first 80 addresses of the background are the small font (R52). -/
theorem background_of_lt (p : Params) (a : Nat) (h : a < 80) : background p a = p.fontSmall[a] := dif_pos h

/-- Below the load address, loading a program leaves the background. -/
theorem State.readByte_loaded_below (params : Params) (program : List Byte) (a : Nat) (h : a < 0x200) :
    ((State.fresh params).writeBytes 0x200 program).readByte a = background params a := by
  rw [State.readByte_writeBytes _ (State.wf_fresh params), dif_neg (by omega), State.readByte_fresh]

/-- From the load address on, the loaded program's bytes stand in their order. -/
theorem State.readByte_loaded_program (params : Params) (program : List Byte) (k : Nat) (h : k < program.length) :
    ((State.fresh params).writeBytes 0x200 program).readByte (0x200 + k) = program[k] := by
  rw [State.readByte_writeBytes _ (State.wf_fresh params), dif_pos (by omega)]
  simp

/-- The fetch of an engine whose `pc` is the load address is the big-endian word there. -/
theorem State.fetch_at_progBase {s : State} (h : s.pc = 0x200) :
    s.fetch = some (s.readByte 0x200 ++ s.readByte 0x201) := by
  have hpc : s.pc.toNat = 0x200 := by rw [h]; rfl
  rcases s.fetch_cases with ⟨-, hf⟩ | ⟨hlt, -⟩
  · rwa [hpc] at hf
  · omega

/-- Settles O57: loading writes nothing below `0x200`, so the font stays, and the first two bytes stand at `pc`. -/
theorem constructStartsAtTheProgram : Obligations.ConstructStartsAtTheProgram := by
  intro program params hlen
  refine ⟨_, construct_of_length_le params hlen, rfl, fun a ha => ?font, ?word⟩
  case font =>
    rw [State.readByte_loaded_below _ _ a (by omega), background_of_lt _ a ha]
  case word =>
    rintro b0 b1 rest rfl
    have h0 := State.readByte_loaded_program params (b0 :: b1 :: rest) 0 (by simp)
    have h1 := State.readByte_loaded_program params (b0 :: b1 :: rest) 1 (by simp)
    rw [State.fetch_at_progBase rfl, h0, h1]
    rfl

end Sys2Proof.Machine
end

section
/-! SUPPORT. The proof for the encoding obligation O2: the decoder's fields as bit ranges of the word. -/

namespace Sys2Proof

/-- R71: the immediate byte is the two low digits of the word, side by side. -/
theorem kk_eq_y_append_n (w : Word) : (decodeFields w).kk = (decodeFields w).y ++ (decodeFields w).n := by
  apply BitVec.eq_of_toNat_eq
  rw [toNat_append_eq, toNat_kk, toNat_y, toNat_n]
  omega

/-- R71: the address is the register index of `x` above the immediate byte. -/
theorem nnn_eq_x_append_y_append_n (w : Word) :
    (decodeFields w).nnn = (decodeFields w).x ++ (decodeFields w).y ++ (decodeFields w).n := by
  apply BitVec.eq_of_toNat_eq
  rw [toNat_append_eq, toNat_append_eq, toNat_nnn, toNat_x, toNat_y, toNat_n]
  omega

/-- Settles O2: the six ranges are the field lemmas of the decoder, the two overlaps the lemmas above. -/
theorem fieldsAreTheBitRanges : Obligations.FieldsAreTheBitRanges := fun w =>
  ⟨toNat_hi w, toNat_x w, toNat_y w, toNat_n w, toNat_kk w, toNat_nnn w,
    kk_eq_y_append_n w, nnn_eq_x_append_y_append_n w⟩

end Sys2Proof
end

section
/-! PROOFS. The jumps `1nnn` and `Bnnn` (R103, R109) and the four comparison skips (R105 to R108). -/

namespace Sys2Proof.Machine

/-! What the dispatcher runs for each of them. -/

theorem exec_jp (nnn : Addr12) (s : State) : exec (.jp nnn) s = .next (s.setPc (addrWord nnn)) := rfl

theorem exec_jpOff (x : RegIdx) (nnn : Addr12) (s : State) :
    exec (.jpOff x nnn) s = .next (s.setPc (offsetTarget nnn (s.reg x))) := rfl

theorem exec_seImm (x : RegIdx) (kk : Byte) (s : State) :
    exec (.seImm x kk) s = .next (s.skipIf (s.reg x == kk)) := rfl

theorem exec_sneImm (x : RegIdx) (kk : Byte) (s : State) :
    exec (.sneImm x kk) s = .next (s.skipIf (s.reg x != kk)) := rfl

theorem exec_seReg (x y : RegIdx) (s : State) :
    exec (.seReg x y) s = .next (s.skipIf (s.reg x == s.reg y)) := rfl

theorem exec_sneReg (x y : RegIdx) (s : State) :
    exec (.sneReg x y) s = .next (s.skipIf (s.reg x != s.reg y)) := rfl

/-! The target of a jump, and the two comparisons that decide a skip. -/

theorem addrWord_eq_ofNat (nnn : Addr12) : addrWord nnn = BitVec.ofNat 16 nnn.toNat := (BitVec.ofNat_toNat 16 nnn).symm

/-- The operands are below `2^12` and `2^8`, so the 16-bit sum does not wrap (R109). -/
theorem toNat_offsetTarget (nnn : Addr12) (b : Byte) : (offsetTarget nnn b).toNat = nnn.toNat + b.toNat := by
  have haddr : (addrWord nnn).toNat = nnn.toNat := BitVec.toNat_setWidth_of_le (by decide)
  have hbyte : (byteWord b).toNat = b.toNat := BitVec.toNat_setWidth_of_le (by decide)
  have hnnn := nnn.isLt
  have hb := b.isLt
  rw [offsetTarget, BitVec.toNat_add_of_lt (by omega), haddr, hbyte]

/-- A skip on equality moves `pc` when the bytes are equal, and changes nothing else. -/
theorem State.skipIf_beq (s : State) (a b : Byte) :
    s.skipIf (a == b) = { s with pc := if a = b then s.pc + 2 else s.pc } := by
  simp only [State.skipIf_eq, beq_iff_eq]

/-- A skip on difference moves `pc` when the bytes differ, and changes nothing else. -/
theorem State.skipIf_bne (s : State) (a b : Byte) :
    s.skipIf (a != b) = { s with pc := if a = b then s.pc else s.pc + 2 } := by
  simp only [State.skipIf_eq, bne_iff_ne, ite_not]

/-- Settles O21: the jump's target is the zero-extended address. -/
theorem jumpSetsPc : Obligations.JumpSetsPc := by
  intro s nnn
  rw [exec_jp, addrWord_eq_ofNat, State.setPc]

/-- Settles O24: each of the four is a skip on equality or on difference. -/
theorem skipsFollowTheirComparison : Obligations.SkipsFollowTheirComparison := by
  intro s x y kk
  refine ⟨?seImm, ?sneImm, ?seReg, ?sneReg⟩
  case seImm => rw [exec_seImm, State.skipIf_beq]
  case sneImm => rw [exec_sneImm, State.skipIf_bne]
  case seReg => rw [exec_seReg, State.skipIf_beq]
  case sneReg => rw [exec_sneReg, State.skipIf_bne]

/-- Settles O25: the jump writes `pc` alone, and its target is the unwrapped sum. -/
theorem jumpOffsetAddsRegister : Obligations.JumpOffsetAddsRegister := fun s nnn =>
  ⟨_, exec_jpOff _ nnn s, toNat_offsetTarget nnn _, rfl⟩

end Sys2Proof.Machine
end

section
/-! PROOFS. The register loads `6xkk` and `8xy0` and the immediate add `7xkk` (R133 to R135). -/

namespace Sys2Proof.Machine

/-! What the dispatcher runs for each of them: one register write, whichever register `x` is. -/

theorem exec_ldImm (x : RegIdx) (kk : Byte) (s : State) : exec (.ldImm x kk) s = .next (s.setReg x kk) := rfl

theorem exec_addImm (x : RegIdx) (kk : Byte) (s : State) :
    exec (.addImm x kk) s = .next (s.setReg x (s.reg x + kk)) := rfl

theorem exec_ldReg (x y : RegIdx) (s : State) : exec (.ldReg x y) s = .next (s.setReg x (s.reg y)) := rfl

theorem State.setReg_eq (s : State) (x : RegIdx) (b : Byte) :
    s.setReg x b = { s with V := s.V.set x.toNat b x.isLt } := rfl

/-- The adder's result is the sum of the two numbers modulo 256. -/
theorem byte_add_eq_ofNat (a b : Byte) : a + b = BitVec.ofNat 8 ((a.toNat + b.toNat) % 256) := by
  apply BitVec.eq_of_toNat_eq
  rw [BitVec.toNat_add, BitVec.toNat_ofNat, Nat.mod_mod]

/-- Settles O26: each of the three is one register write, and the sum of `7xkk` wraps at 256. -/
theorem loadsAndImmediateAdd : Obligations.LoadsAndImmediateAdd := by
  intro s x y kk
  refine ⟨?ldImm, ?addImm, ?ldReg⟩
  case ldImm => rw [exec_ldImm, State.setReg_eq]
  case addImm => rw [exec_addImm, byte_add_eq_ofNat, State.setReg_eq]
  case ldReg => rw [exec_ldReg, State.setReg_eq]

end Sys2Proof.Machine
end

section
/-! PROOFS. The index load `Annn` (R170). -/

namespace Sys2Proof.Machine

/-- What the dispatcher runs for `Annn`: one write of the index register. -/
theorem exec_ldI (nnn : Addr12) (s : State) : exec (.ldI nnn) s = .next (s.setI (addrWord nnn)) := rfl

/-- Settles O32: the one write of `Annn` is to `I`, and its value is the zero-extended address. -/
theorem loadIndexImmediate : Obligations.LoadIndexImmediate := by
  intro s nnn
  rw [exec_ldI, addrWord_eq_ofNat, State.setI]

end Sys2Proof.Machine
end

section
/-! PROOFS. The draw `Dxyn`: the cells of a sprite, the active window (R201), and what a draw toggles and reports (R208
to R211). -/

namespace Sys2Proof.Machine

/-! ## The cells of a sprite -/

/-- The two active dimensions (R201). -/
theorem State.active_dimensions (s : State) :
    (s.activeWidth, s.activeHeight) = if s.hires then (128, 64) else (64, 32) := by
  unfold State.activeWidth State.activeHeight
  cases s.hires <;> rfl

theorem State.activeWidth_bounds (s : State) : 64 ≤ s.activeWidth ∧ s.activeWidth ≤ 128 := by
  unfold State.activeWidth
  split <;> decide

theorem State.activeHeight_bounds (s : State) : 32 ≤ s.activeHeight ∧ s.activeHeight ≤ 64 := by
  unfold State.activeHeight
  split <;> decide

theorem spriteShape_bounds (hires : Bool) (n : BitVec 4) :
    (spriteShape hires n).width ≤ 16 ∧ (spriteShape hires n).rows ≤ 16 := by
  unfold spriteShape
  split
  · exact ⟨Nat.le_refl 16, Nat.le_refl 16⟩
  · exact ⟨(by decide : 8 ≤ 16), n.isLt.le⟩

/-- Every sprite fits the active window, so that no offset wraps back onto another one. -/
theorem spriteShape_fits (s : State) (n : BitVec 4) :
    (spriteShape s.hires n).width ≤ s.activeWidth ∧ (spriteShape s.hires n).rows ≤ s.activeHeight := by
  have hshape := spriteShape_bounds s.hires n
  have hwidth := s.activeWidth_bounds
  have hheight := s.activeHeight_bounds
  omega

/-- Offsets below the modulus land on different places (R208). -/
theorem wrap_injective {m a i j : Nat} (hi : i < m) (hj : j < m) (h : (a + i) % m = (a + j) % m) : i = j :=
  (Nat.ModEq.add_left_cancel' a h).eq_of_lt_of_lt hi hj

/-- The cell of a bit lies in the active window (R201). -/
theorem State.spriteCell_in_window (s : State) (x y : RegIdx) (row col : Nat) :
    (s.spriteCell x y row col).1 < s.activeWidth ∧ (s.spriteCell x y row col).2 < s.activeHeight :=
  ⟨Nat.mod_lt _ (by have := s.activeWidth_bounds; omega), Nat.mod_lt _ (by have := s.activeHeight_bounds; omega)⟩

/-- The list of cells that the compositor runs through is the set of cells that a set bit lands on. -/
theorem State.mem_spriteCells (s : State) (x y : RegIdx) (n : BitVec 4) (c r : Nat) :
    (c, r) ∈ s.spriteCells x y (spriteShape s.hires n) ↔ s.SpriteCovers x y n c r := by
  simp only [State.spriteCells, State.SpriteCovers, State.spriteCell, List.mem_flatMap, List.mem_map, List.mem_filter,
    List.mem_range, Prod.mk.injEq]
  constructor
  · rintro ⟨row, hrow, col, ⟨hcol, hbit⟩, hc, hr⟩
    exact ⟨row, col, hrow, hcol, hbit, hc.symm, hr.symm⟩
  · rintro ⟨row, col, hrow, hcol, hbit, hc, hr⟩
    exact ⟨row, hrow, col, ⟨hcol, hbit⟩, hc.symm, hr.symm⟩

/-- Every cell of a sprite lies in the active window (R201). -/
theorem State.SpriteCovers.in_window {s : State} {x y : RegIdx} {n : BitVec 4} {c r : Nat}
    (h : s.SpriteCovers x y n c r) : c < s.activeWidth ∧ r < s.activeHeight := by
  obtain ⟨row, col, -, -, -, rfl, rfl⟩ := h
  exact s.spriteCell_in_window x y row col

/-- No two bits of a sprite land on one cell (R213): within a row the columns differ, and two rows share no cell. -/
theorem State.nodup_spriteCells (s : State) (x y : RegIdx) (n : BitVec 4) :
    (s.spriteCells x y (spriteShape s.hires n)).Nodup := by
  obtain ⟨hwidth, hrows⟩ := spriteShape_fits s n
  refine List.nodup_flatMap.mpr ⟨fun row _ => ?columns, ?rows⟩
  case columns =>
    refine (List.nodup_range.filter _).map_on fun col hcol col' hcol' h => ?_
    have hlt := List.mem_range.mp (List.mem_of_mem_filter hcol)
    have hlt' := List.mem_range.mp (List.mem_of_mem_filter hcol')
    exact wrap_injective (hlt.trans_le hwidth) (hlt'.trans_le hwidth) (Prod.ext_iff.mp h).1
  case rows =>
    refine List.nodup_range.imp_of_mem fun {row row'} hrow hrow' hne => ?_
    refine List.disjoint_left.mpr fun p hp hp' => hne ?_
    obtain ⟨col, -, rfl⟩ := List.mem_map.mp hp
    obtain ⟨col', -, h⟩ := List.mem_map.mp hp'
    have hlt := List.mem_range.mp hrow
    have hlt' := List.mem_range.mp hrow'
    exact wrap_injective (hlt.trans_le hrows) (hlt'.trans_le hrows) (Prod.ext_iff.mp h).2.symm

/-- The compositor on the cells of a sprite: they are distinct cells of the storage. -/
theorem State.composite_spriteCells (s : State) (x y : RegIdx) (n : BitVec 4) :
    (∀ c r, Framebuffer.lit (composite s.FB (s.spriteCells x y (spriteShape s.hires n))).1 c r =
        (Framebuffer.lit s.FB c r ^^ decide ((c, r) ∈ s.spriteCells x y (spriteShape s.hires n)))) ∧
      (composite s.FB (s.spriteCells x y (spriteShape s.hires n))).2 =
        decide (∃ p ∈ s.spriteCells x y (spriteShape s.hires n), Framebuffer.lit s.FB p.1 p.2 = true) := by
  refine composite_spec _ _ (s.nodup_spriteCells x y n) fun ⟨c, r⟩ hp => ?_
  obtain ⟨hc, hr⟩ := ((s.mem_spriteCells x y n c r).mp hp).in_window
  exact ⟨hc.trans_le s.activeWidth_bounds.2, hr.trans_le s.activeHeight_bounds.2⟩

/-! ## A draw whose sprite bytes lie in memory -/

section
variable (s : State) (x y : RegIdx) (n : BitVec 4)

theorem State.drawSprite_eq : s.drawSprite x y (spriteShape s.hires n) =
    { s with
      FB := (s.drawSprite x y (spriteShape s.hires n)).FB
      V := s.V.set 15 ((s.drawSprite x y (spriteShape s.hires n)).reg VF) } := by
  rw [State.drawSprite, State.reg_setReg_same]
  rfl

/-- A cell that a set bit lands on is toggled (R209). -/
theorem State.lit_drawSprite_of_covers {c r : Nat} (h : s.SpriteCovers x y n c r) :
    Framebuffer.lit (s.drawSprite x y (spriteShape s.hires n)).FB c r = !Framebuffer.lit s.FB c r := by
  have hmem := (s.mem_spriteCells x y n c r).mpr h
  rw [State.drawSprite, State.setReg_FB, State.setFB_FB, (s.composite_spriteCells x y n).1, decide_eq_true hmem,
    Bool.xor_true]

/-- Every other cell is left as it was (R209). -/
theorem State.lit_drawSprite_of_not_covers {c r : Nat} (h : ¬ s.SpriteCovers x y n c r) :
    Framebuffer.lit (s.drawSprite x y (spriteShape s.hires n)).FB c r = Framebuffer.lit s.FB c r := by
  have hmem := mt (s.mem_spriteCells x y n c r).mp h
  rw [State.drawSprite, State.setReg_FB, State.setFB_FB, (s.composite_spriteCells x y n).1, decide_eq_false hmem,
    Bool.xor_false]

/-- The collision detector reports whether a set bit lands on a lit cell (R210). -/
theorem State.collision_spriteCells : (composite s.FB (s.spriteCells x y (spriteShape s.hires n))).2 = true ↔
    ∃ c r, s.SpriteCovers x y n c r ∧ Framebuffer.lit s.FB c r = true := by
  simp only [(s.composite_spriteCells x y n).2, decide_eq_true_eq, Prod.exists, State.mem_spriteCells]

/-- `VF` is the collision flag (R211). -/
theorem State.reg_VF_drawSprite : (s.drawSprite x y (spriteShape s.hires n)).reg VF =
    flagByte (composite s.FB (s.spriteCells x y (spriteShape s.hires n))).2 :=
  State.reg_setReg_same _ VF _

end

/-! ## The instruction -/

/-- What the dispatcher runs for `Dxyn`. -/
theorem exec_drw (x y : RegIdx) (n : BitVec 4) (s : State) : exec (.drw x y n) s =
    s.accessIndexed (spriteShape s.hires n).len fun t => .next (t.drawSprite x y (spriteShape t.hires n)) := rfl

/-- A draw whose sprite bytes lie in memory. -/
theorem exec_drw_in (x y : RegIdx) (n : BitVec 4) (s : State) (h : s.I.toNat + (spriteShape s.hires n).len ≤ 4096) :
    exec (.drw x y n) s = .next (s.drawSprite x y (spriteShape s.hires n)) := by
  rw [exec_drw, State.accessIndexed_in _ _ _ h]

/-- Whether it draws or fails (R212), `Dxyn` leaves every cell that the sprite does not cover. -/
theorem lit_drw_of_not_covers {s t : State} {x y : RegIdx} {n : BitVec 4} {c r : Nat}
    (ht : exec (.drw x y n) s = .next t) (h : ¬ s.SpriteCovers x y n c r) :
    Framebuffer.lit t.FB c r = Framebuffer.lit s.FB c r := by
  rw [exec_drw] at ht
  obtain ⟨-, hrun⟩ | ⟨-, hrun⟩ := State.accessIndexed_cases s (spriteShape s.hires n).len
    fun t => .next (t.drawSprite x y (spriteShape t.hires n))
  · obtain rfl := Host.Outcome.next.inj (hrun.symm.trans ht)
    exact s.lit_drawSprite_of_not_covers x y n h
  · obtain rfl := Host.Outcome.next.inj (hrun.symm.trans ht)
    rfl

/-- Settles O42: a sprite covers cells of the active window alone, and a draw leaves every cell it does not cover. -/
theorem drawStaysInActiveWindow : Obligations.DrawStaysInActiveWindow := by
  intro s
  refine ⟨s.active_dimensions, fun x y n => ⟨fun row col => rfl, fun t c r ht hout => ?outside⟩⟩
  case outside =>
    have hfree : ¬ s.SpriteCovers x y n c r := fun hcov => hout hcov.in_window
    exact lit_drw_of_not_covers ht hfree

/-- Settles O43: the compositor toggles the sprite's distinct cells, and the flag it leaves lands in `VF` last. -/
theorem drawTogglesSpriteCells : Obligations.DrawTogglesSpriteCells := by
  intro s x y n hmem
  refine ⟨_, exec_drw_in x y n s hmem, fun c r => s.lit_drawSprite_of_covers x y n,
    fun c r => s.lit_drawSprite_of_not_covers x y n, fun hhit => ?collision, fun hmiss => ?noCollision,
    s.drawSprite_eq x y n⟩
  case collision => rw [State.reg_VF_drawSprite, (s.collision_spriteCells x y n).mpr hhit, flagByte, if_pos rfl]
  case noCollision =>
    have hdark := Bool.eq_false_iff.mpr (mt (s.collision_spriteCells x y n).mp hmiss)
    rw [State.reg_VF_drawSprite, hdark, flagByte, if_neg Bool.false_ne_true]

end Sys2Proof.Machine
end

section
/-! PROOFS. The timer moves `Fx07`, `Fx15` and `Fx18` (R233, R235, R236). -/

namespace Sys2Proof.Machine

/-! What the dispatcher runs for each of them: one write, to a register or to a timer. -/

theorem exec_ldVxDt (x : RegIdx) (s : State) : exec (.ldVxDt x) s = .next (s.setReg x s.DT) := rfl

theorem exec_ldDtVx (x : RegIdx) (s : State) : exec (.ldDtVx x) s = .next (s.setDT (s.reg x)) := rfl

theorem exec_ldStVx (x : RegIdx) (s : State) : exec (.ldStVx x) s = .next (s.setST (s.reg x)) := rfl

/-- Settles O53: each of the three is one write, to `V[x]`, to `DT` or to `ST`. -/
theorem timerMoves : Obligations.TimerMoves := by
  intro s x
  refine ⟨?ldVxDt, ?ldDtVx, ?ldStVx⟩
  case ldVxDt => rw [exec_ldVxDt, State.setReg_eq]
  case ldDtVx => rw [exec_ldDtVx, State.setDT]
  case ldStVx => rw [exec_ldStVx, State.setST]

end Sys2Proof.Machine
end

section
/-! PROOFS. The limit on the program's length, and the engine of the empty program (R52, R281). -/

namespace Sys2Proof.Machine

/-- A program above the limit creates no engine (R281). -/
theorem construct_of_length_gt {program : List Byte} (params : Params) (h : 3584 < program.length) :
    construct program params = .fault (.programTooLarge program.length) := if_pos h

/-- Past the loaded program memory is zero, as the fonts end below the load address (R52). -/
theorem State.readByte_loaded_above (params : Params) (program : List Byte) (a : Nat)
    (h : 0x200 + program.length ≤ a) : ((State.fresh params).writeBytes 0x200 program).readByte a = 0 := by
  rw [State.readByte_writeBytes _ (State.wf_fresh params), dif_neg (by omega), State.readByte_fresh,
    background_of_le _ _ (by omega)]

/-- Settles O56: the length decides, and the empty program leaves the zeros from `0x200` on to the first fetch. -/
theorem constructLimitsProgramLength : Obligations.ConstructLimitsProgramLength := by
  intro program params
  refine ⟨construct_of_length_gt params, fun hlen => ⟨_, construct_of_length_le params hlen, ?empty⟩, ?bad⟩
  case empty =>
    rintro rfl
    have hzero (a : Nat) (ha : 0x200 ≤ a) := State.readByte_loaded_above params [] a ha
    refine ⟨fun a ha _ => hzero a ha, ?_⟩
    rw [State.fetch_at_progBase rfl, hzero 0x200 (by decide), hzero 0x201 (by decide)]
    rfl
  case bad => decide

end Sys2Proof.Machine
end

section
/-! PROOFS. Decoding and encoding are inverse to each other (R71, R75, R79), and both follow the opcode map (R81). -/

namespace Sys2Proof

/-! ## A word is put together again from its fields -/

theorem wordNnn_fields (w : Word) : wordNnn (decodeFields w).hi (decodeFields w).nnn = w := by
  apply BitVec.eq_of_toNat_eq
  rw [toNat_wordNnn, toNat_hi, toNat_nnn]
  omega

theorem wordXkk_fields (w : Word) : wordXkk (decodeFields w).hi (decodeFields w).x (decodeFields w).kk = w := by
  apply BitVec.eq_of_toNat_eq
  rw [toNat_wordXkk, toNat_hi, toNat_x, toNat_kk]
  omega

theorem wordXyn_fields (w : Word) :
    wordXyn (decodeFields w).hi (decodeFields w).x (decodeFields w).y (decodeFields w).n = w := by
  apply BitVec.eq_of_toNat_eq
  rw [toNat_wordXyn, toNat_hi, toNat_x, toNat_y, toNat_n]
  omega

/-! The same with the digits that the multiplexer selects by (R79). -/

theorem wordNnn_of_hi {w : Word} {hi : BitVec 4} (h : (decodeFields w).hi.toNat = hi.toNat) :
    wordNnn hi (decodeFields w).nnn = w := by
  rw [← BitVec.eq_of_toNat_eq h, wordNnn_fields]

theorem wordXkk_of_hi {w : Word} {hi : BitVec 4} (h : (decodeFields w).hi.toNat = hi.toNat) :
    wordXkk hi (decodeFields w).x (decodeFields w).kk = w := by
  rw [← BitVec.eq_of_toNat_eq h, wordXkk_fields]

theorem wordXyn_of_hi {w : Word} {hi : BitVec 4} (h : (decodeFields w).hi.toNat = hi.toNat) :
    wordXyn hi (decodeFields w).x (decodeFields w).y (decodeFields w).n = w := by
  rw [← BitVec.eq_of_toNat_eq h, wordXyn_fields]

theorem wordXkk_of_hi_kk {w : Word} {hi : BitVec 4} {kk : Byte} (h : (decodeFields w).hi.toNat = hi.toNat)
    (hkk : (decodeFields w).kk.toNat = kk.toNat) : wordXkk hi (decodeFields w).x kk = w := by
  rw [← BitVec.eq_of_toNat_eq hkk, wordXkk_of_hi h]

theorem wordXyn_of_hi_n {w : Word} {hi n : BitVec 4} (h : (decodeFields w).hi.toNat = hi.toNat)
    (hn : (decodeFields w).n.toNat = n.toNat) : wordXyn hi (decodeFields w).x (decodeFields w).y n = w := by
  rw [← BitVec.eq_of_toNat_eq hn, wordXyn_of_hi h]

/-- The register field is the top digit of the address field (R75). -/
theorem x_eq_top_of_nnn (w : Word) : (decodeFields w).x = (decodeFields w).nnn.extractLsb' 8 4 := by
  rw [← x_wordNnn (decodeFields w).hi, wordNnn_fields]

/-! ## Encoding, then decoding -/

/-- Settles O3: each format gives its fields back, and the digits that the encoder fixes select the instruction. -/
theorem decodeInvertsEncode : Obligations.DecodeInvertsEncode := by
  intro i hwf
  cases i with
  | cls | ret | low | high => decide
  | jp nnn | call nnn | ldI nnn => simp [encode, decodeWord]
  | jpOff x nnn => simp [encode, decodeWord, show x = nnn.extractLsb' 8 4 from hwf]
  | seImm x kk | sneImm x kk | ldImm x kk | addImm x kk | rnd x kk => simp [encode, decodeWord]
  | seReg x y | sneReg x y => simp [encode, decodeWord]
  | drw x y n => simp [encode, decodeWord]
  | ldReg x y | orReg x y | andReg x y | xorReg x y | addReg x y | subReg x y | shrReg x y | subnReg x y
  | shlReg x y => simp [encode, decodeWord, decodeArith]
  | skp x | sknp x => simp [encode, decodeWord, decodeKey]
  | ldVxDt x | ldVxK x | ldDtVx x | ldStVx x | addIVx x | ldFVx x | ldHfVx x | ldBVx x | ldMemVx x
  | ldVxMem x => simp [encode, decodeWord, decodeMisc]

/-! ## Decoding, then encoding -/

theorem encode_of_decodeSystem {w : Word} {i : Instr} (h : decodeSystem w = some i) : i.WellFormed ∧ encode i = w := by
  unfold decodeSystem at h
  split_ifs at h with hcls hret hlow hhigh
  all_goals cases h
  · exact ⟨trivial, hcls.symm⟩
  · exact ⟨trivial, hret.symm⟩
  · exact ⟨trivial, hlow.symm⟩
  · exact ⟨trivial, hhigh.symm⟩

theorem encode_of_decodeArith {w : Word} {i : Instr} (hhi : (decodeFields w).hi.toNat = 0x8)
    (h : decodeArith (decodeFields w) = some i) : i.WellFormed ∧ encode i = w := by
  unfold decodeArith at h
  split at h
  all_goals cases h
  all_goals exact ⟨trivial, wordXyn_of_hi_n hhi ‹_›⟩

theorem encode_of_decodeKey {w : Word} {i : Instr} (hhi : (decodeFields w).hi.toNat = 0xE)
    (h : decodeKey (decodeFields w) = some i) : i.WellFormed ∧ encode i = w := by
  unfold decodeKey at h
  split at h
  all_goals cases h
  all_goals exact ⟨trivial, wordXkk_of_hi_kk hhi ‹_›⟩

theorem encode_of_decodeMisc {w : Word} {i : Instr} (hhi : (decodeFields w).hi.toNat = 0xF)
    (h : decodeMisc (decodeFields w) = some i) : i.WellFormed ∧ encode i = w := by
  unfold decodeMisc at h
  split at h
  all_goals cases h
  all_goals exact ⟨trivial, wordXkk_of_hi_kk hhi ‹_›⟩

/-- The two families whose last digit must be 0 (R78). -/
theorem encode_of_decodeZero {w : Word} {i j : Instr} {hi : BitVec 4} (hhi : (decodeFields w).hi.toNat = hi.toNat)
    (hj : j.WellFormed) (hjw : encode j = wordXyn hi (decodeFields w).x (decodeFields w).y 0)
    (h : (if (decodeFields w).n = 0 then some j else none) = some i) : i.WellFormed ∧ encode i = w := by
  split_ifs at h with hn
  cases h
  exact ⟨hj, hjw.trans (wordXyn_of_hi_n hhi (congrArg BitVec.toNat hn))⟩

/-- Settles O4: the family fixes the first digit, the secondary select the digits that are no operand, and the
instruction keeps every other field. -/
theorem encodeInvertsDecode : Obligations.EncodeInvertsDecode := by
  intro w i h
  dsimp only [decodeWord] at h
  split at h
  case h_1 => exact encode_of_decodeSystem h
  case h_6 hhi => exact encode_of_decodeZero (hi := 0x5) hhi trivial rfl h
  case h_10 hhi => exact encode_of_decodeZero (hi := 0x9) hhi trivial rfl h
  case h_9 hhi => exact encode_of_decodeArith hhi h
  case h_15 hhi => exact encode_of_decodeKey hhi h
  case h_16 hhi => exact encode_of_decodeMisc hhi h
  all_goals cases h
  case h_2 hhi | h_3 hhi | h_11 hhi => exact ⟨trivial, wordNnn_of_hi hhi⟩
  case h_12 hhi => exact ⟨x_eq_top_of_nnn w, wordNnn_of_hi hhi⟩
  case h_14 hhi => exact ⟨trivial, wordXyn_of_hi hhi⟩
  all_goals exact ⟨trivial, wordXkk_of_hi ‹_›⟩

/-! ## The opcode map -/

/-- Settles O6: the family TablePattern, one constructor after another. -/
theorem everyEncodingHasItsRow : Obligations.EveryEncodingHasItsRow := by
  intro i
  cases i with
  | cls => exact Laws.TablePattern.cls
  | ret => exact Laws.TablePattern.ret
  | low => exact Laws.TablePattern.low
  | high => exact Laws.TablePattern.high
  | jp nnn => exact Laws.TablePattern.jp nnn
  | call nnn => exact Laws.TablePattern.call nnn
  | seImm x kk => exact Laws.TablePattern.seImm x kk
  | sneImm x kk => exact Laws.TablePattern.sneImm x kk
  | seReg x y => exact Laws.TablePattern.seReg x y
  | ldImm x kk => exact Laws.TablePattern.ldImm x kk
  | addImm x kk => exact Laws.TablePattern.addImm x kk
  | ldReg x y => exact Laws.TablePattern.ldReg x y
  | orReg x y => exact Laws.TablePattern.orReg x y
  | andReg x y => exact Laws.TablePattern.andReg x y
  | xorReg x y => exact Laws.TablePattern.xorReg x y
  | addReg x y => exact Laws.TablePattern.addReg x y
  | subReg x y => exact Laws.TablePattern.subReg x y
  | shrReg x y => exact Laws.TablePattern.shrReg x y
  | subnReg x y => exact Laws.TablePattern.subnReg x y
  | shlReg x y => exact Laws.TablePattern.shlReg x y
  | sneReg x y => exact Laws.TablePattern.sneReg x y
  | ldI nnn => exact Laws.TablePattern.ldI nnn
  | jpOff x nnn => exact Laws.TablePattern.jpOff x nnn
  | rnd x kk => exact Laws.TablePattern.rnd x kk
  | drw x y n => exact Laws.TablePattern.drw x y n
  | skp x => exact Laws.TablePattern.skp x
  | sknp x => exact Laws.TablePattern.sknp x
  | ldVxDt x => exact Laws.TablePattern.ldVxDt x
  | ldVxK x => exact Laws.TablePattern.ldVxK x
  | ldDtVx x => exact Laws.TablePattern.ldDtVx x
  | ldStVx x => exact Laws.TablePattern.ldStVx x
  | addIVx x => exact Laws.TablePattern.addIVx x
  | ldFVx x => exact Laws.TablePattern.ldFVx x
  | ldHfVx x => exact Laws.TablePattern.ldHfVx x
  | ldBVx x => exact Laws.TablePattern.ldBVx x
  | ldMemVx x => exact Laws.TablePattern.ldMemVx x
  | ldVxMem x => exact Laws.TablePattern.ldVxMem x

/-- `r.Decodes`: the words of the row decode to instructions of the row's mnemonic. -/
def OpcodeRow.Decodes (r : OpcodeRow) : Prop :=
  ∀ w : Word, r.Matches w → ∃ i, decodeWord w = some i ∧ i.mnemonic = r.mnemonic

/-- `i.Denotes w m`: an instruction of mnemonic `m` whose word is `w`. -/
def Instr.Denotes (i : Instr) (w : Word) (m : String) : Prop := i.WellFormed ∧ encode i = w ∧ i.mnemonic = m

theorem Instr.Denotes.decodes {i : Instr} {w : Word} {m : String} (h : i.Denotes w m) :
    ∃ j, decodeWord w = some j ∧ j.mnemonic = m := by
  obtain ⟨hwf, rfl, hm⟩ := h
  exact ⟨i, decodeInvertsEncode i hwf, hm⟩

/-! A mask leaves the digits that the encoder fixes. -/

theorem hi_and_F000 (w : Word) : (decodeFields (w &&& 0xF000)).hi = (decodeFields w).hi := by
  have h := wordNnn_and_F000 (decodeFields w).hi (decodeFields w).nnn
  rw [wordNnn_fields] at h
  rw [h, hi_wordNnn]

theorem select_and_F0FF (w : Word) : (decodeFields (w &&& 0xF0FF)).hi = (decodeFields w).hi ∧
    (decodeFields (w &&& 0xF0FF)).kk = (decodeFields w).kk := by
  have h := wordXkk_and_F0FF (decodeFields w).hi (decodeFields w).x (decodeFields w).kk
  rw [wordXkk_fields] at h
  rw [h, hi_wordXkk, kk_wordXkk]
  exact ⟨rfl, rfl⟩

theorem select_and_F00F (w : Word) : (decodeFields (w &&& 0xF00F)).hi = (decodeFields w).hi ∧
    (decodeFields (w &&& 0xF00F)).n = (decodeFields w).n := by
  have h := wordXyn_and_F00F (decodeFields w).hi (decodeFields w).x (decodeFields w).y (decodeFields w).n
  rw [wordXyn_fields] at h
  rw [h, hi_wordXyn, n_wordXyn]
  exact ⟨rfl, rfl⟩

/-! A row of each mask and format: the instruction is built from the word's own operand fields. -/

section
variable {m : String} {p : Word}

theorem decodes_word (i : Instr) (hi : i.Denotes p m) : OpcodeRow.Decodes ⟨m, p, 0xFFFF⟩ := by
  intro w hw
  have hwp : w = p := BitVec.and_allOnes.symm.trans hw
  exact hwp ▸ hi.decodes

theorem decodes_nnn (op : Addr12 → Instr) (hop : ∀ nnn, (op nnn).Denotes (wordNnn (decodeFields p).hi nnn) m) :
    OpcodeRow.Decodes ⟨m, p, 0xF000⟩ := by
  intro w hw
  obtain rfl : w &&& 0xF000 = p := hw
  have h := hop (decodeFields w).nnn
  rw [hi_and_F000, wordNnn_fields] at h
  exact h.decodes

theorem decodes_xkk (op : RegIdx → Byte → Instr)
    (hop : ∀ x kk, (op x kk).Denotes (wordXkk (decodeFields p).hi x kk) m) : OpcodeRow.Decodes ⟨m, p, 0xF000⟩ := by
  intro w hw
  obtain rfl : w &&& 0xF000 = p := hw
  have h := hop (decodeFields w).x (decodeFields w).kk
  rw [hi_and_F000, wordXkk_fields] at h
  exact h.decodes

theorem decodes_xyn (op : RegIdx → RegIdx → BitVec 4 → Instr)
    (hop : ∀ x y n, (op x y n).Denotes (wordXyn (decodeFields p).hi x y n) m) : OpcodeRow.Decodes ⟨m, p, 0xF000⟩ := by
  intro w hw
  obtain rfl : w &&& 0xF000 = p := hw
  have h := hop (decodeFields w).x (decodeFields w).y (decodeFields w).n
  rw [hi_and_F000, wordXyn_fields] at h
  exact h.decodes

theorem decodes_xy (op : RegIdx → RegIdx → Instr)
    (hop : ∀ x y, (op x y).Denotes (wordXyn (decodeFields p).hi x y (decodeFields p).n) m) :
    OpcodeRow.Decodes ⟨m, p, 0xF00F⟩ := by
  intro w hw
  obtain rfl : w &&& 0xF00F = p := hw
  have h := hop (decodeFields w).x (decodeFields w).y
  rw [(select_and_F00F w).1, (select_and_F00F w).2, wordXyn_fields] at h
  exact h.decodes

theorem decodes_x (op : RegIdx → Instr)
    (hop : ∀ x, (op x).Denotes (wordXkk (decodeFields p).hi x (decodeFields p).kk) m) :
    OpcodeRow.Decodes ⟨m, p, 0xF0FF⟩ := by
  intro w hw
  obtain rfl : w &&& 0xF0FF = p := hw
  have h := hop (decodeFields w).x
  rw [(select_and_F0FF w).1, (select_and_F0FF w).2, wordXkk_fields] at h
  exact h.decodes

end

/-- Row after row of the opcode map, with the instruction that its words stand for. -/
theorem opcodeTable_decodes : ∀ row ∈ opcodeTable, row.Decodes := by
  simp only [opcodeTable, List.cons_append, List.nil_append, List.forall_mem_cons, List.not_mem_nil, false_implies,
    implies_true, and_true]
  exact
   ⟨decodes_word .cls ⟨trivial, rfl, rfl⟩,
    decodes_word .ret ⟨trivial, rfl, rfl⟩,
    decodes_word .low ⟨trivial, rfl, rfl⟩,
    decodes_word .high ⟨trivial, rfl, rfl⟩,
    decodes_nnn .jp fun _ => ⟨trivial, rfl, rfl⟩,
    decodes_nnn .call fun _ => ⟨trivial, rfl, rfl⟩,
    decodes_xkk .seImm fun _ _ => ⟨trivial, rfl, rfl⟩,
    decodes_xkk .sneImm fun _ _ => ⟨trivial, rfl, rfl⟩,
    decodes_xy .seReg fun _ _ => ⟨trivial, rfl, rfl⟩,
    decodes_xkk .ldImm fun _ _ => ⟨trivial, rfl, rfl⟩,
    decodes_xkk .addImm fun _ _ => ⟨trivial, rfl, rfl⟩,
    decodes_xy .ldReg fun _ _ => ⟨trivial, rfl, rfl⟩,
    decodes_xy .orReg fun _ _ => ⟨trivial, rfl, rfl⟩,
    decodes_xy .andReg fun _ _ => ⟨trivial, rfl, rfl⟩,
    decodes_xy .xorReg fun _ _ => ⟨trivial, rfl, rfl⟩,
    decodes_xy .addReg fun _ _ => ⟨trivial, rfl, rfl⟩,
    decodes_xy .subReg fun _ _ => ⟨trivial, rfl, rfl⟩,
    decodes_xy .shrReg fun _ _ => ⟨trivial, rfl, rfl⟩,
    decodes_xy .subnReg fun _ _ => ⟨trivial, rfl, rfl⟩,
    decodes_xy .shlReg fun _ _ => ⟨trivial, rfl, rfl⟩,
    decodes_xy .sneReg fun _ _ => ⟨trivial, rfl, rfl⟩,
    decodes_nnn .ldI fun _ => ⟨trivial, rfl, rfl⟩,
    decodes_nnn (fun nnn => .jpOff (nnn.extractLsb' 8 4) nnn) fun _ => ⟨rfl, rfl, rfl⟩,
    decodes_xkk .rnd fun _ _ => ⟨trivial, rfl, rfl⟩,
    decodes_xyn .drw fun _ _ _ => ⟨trivial, rfl, rfl⟩,
    decodes_x .skp fun _ => ⟨trivial, rfl, rfl⟩,
    decodes_x .sknp fun _ => ⟨trivial, rfl, rfl⟩,
    decodes_x .ldVxDt fun _ => ⟨trivial, rfl, rfl⟩,
    decodes_x .ldVxK fun _ => ⟨trivial, rfl, rfl⟩,
    decodes_x .ldDtVx fun _ => ⟨trivial, rfl, rfl⟩,
    decodes_x .ldStVx fun _ => ⟨trivial, rfl, rfl⟩,
    decodes_x .addIVx fun _ => ⟨trivial, rfl, rfl⟩,
    decodes_x .ldFVx fun _ => ⟨trivial, rfl, rfl⟩,
    decodes_x .ldHfVx fun _ => ⟨trivial, rfl, rfl⟩,
    decodes_x .ldBVx fun _ => ⟨trivial, rfl, rfl⟩,
    decodes_x .ldMemVx fun _ => ⟨trivial, rfl, rfl⟩,
    decodes_x .ldVxMem fun _ => ⟨trivial, rfl, rfl⟩⟩

/-- Settles O5: a word that decodes is the word of its instruction, which matches its own row; and row after row, a
word that matches is the word of an instruction of the row. -/
theorem decodeFollowsOpcodeTable : Obligations.DecodeFollowsOpcodeTable := by
  refine ⟨fun w i h => ?_, fun w row hrow => opcodeTable_decodes row hrow w⟩
  obtain ⟨-, rfl⟩ := encodeInvertsDecode w i h
  exact everyEncodingHasItsRow i

/-! ## Sample words -/

/-- Settles O1: one evaluation of the decoder a word. -/
theorem sampleWordsDecode : Obligations.SampleWordsDecode := by
  unfold Obligations.SampleWordsDecode
  decide

end Sys2Proof
end

section
/-! SUPPORT. What the dispatcher runs for each instruction that has no such lemma above, and the values and operations
that several proofs below need. -/

namespace Sys2Proof.Machine

/-! ## The dispatcher (R92) -/

theorem exec_cls (s : State) : exec .cls s = .next (s.setFB Framebuffer.cleared) := rfl

theorem exec_low (s : State) : exec .low s = .next (s.setHires false) := rfl

theorem exec_high (s : State) : exec .high s = .next (s.setHires true) := rfl

theorem exec_ret (s : State) : exec .ret s = s.pop fun v t => .next (t.setPc v) := rfl

theorem exec_call (nnn : Addr12) (s : State) :
    exec (.call nnn) s = s.push s.pc fun t => .next (t.setPc (addrWord nnn)) := rfl

theorem exec_orReg (x y : RegIdx) (s : State) :
    exec (.orReg x y) s = .next (s.setRegLogic x (s.reg x ||| s.reg y)) := rfl

theorem exec_andReg (x y : RegIdx) (s : State) :
    exec (.andReg x y) s = .next (s.setRegLogic x (s.reg x &&& s.reg y)) := rfl

theorem exec_xorReg (x y : RegIdx) (s : State) :
    exec (.xorReg x y) s = .next (s.setRegLogic x (s.reg x ^^^ s.reg y)) := rfl

theorem exec_addReg (x y : RegIdx) (s : State) :
    exec (.addReg x y) s = .next (s.setRegFlag x (s.reg x + s.reg y) (carryFlag (s.reg x) (s.reg y))) := rfl

theorem exec_subReg (x y : RegIdx) (s : State) :
    exec (.subReg x y) s = .next (s.setRegFlag x (s.reg x - s.reg y) (noBorrowFlag (s.reg x) (s.reg y))) := rfl

theorem exec_subnReg (x y : RegIdx) (s : State) :
    exec (.subnReg x y) s = .next (s.setRegFlag x (s.reg y - s.reg x) (noBorrowFlag (s.reg y) (s.reg x))) := rfl

theorem exec_shrReg (x y : RegIdx) (s : State) :
    exec (.shrReg x y) s = .next (s.setRegFlag x (s.reg x >>> 1) (shiftRightFlag (s.reg x))) := rfl

theorem exec_shlReg (x y : RegIdx) (s : State) :
    exec (.shlReg x y) s = .next (s.setRegFlag x (s.reg x <<< 1) (shiftLeftFlag (s.reg x))) := rfl

theorem exec_rnd (x : RegIdx) (kk : Byte) (s : State) :
    exec (.rnd x kk) s = .next ((s.setReg x (limitDraw s.draw kk)).drawn) := rfl

theorem exec_skp (x : RegIdx) (s : State) : exec (.skp x) s = s.keyTest x true := rfl

theorem exec_sknp (x : RegIdx) (s : State) : exec (.sknp x) s = s.keyTest x false := rfl

theorem exec_ldVxK_of_some {s : State} {k : Nat} (x : RegIdx) (h : s.lowestPressed = some k) :
    exec (.ldVxK x) s = .next (s.setReg x (BitVec.ofNat 8 k)) := by
  rw [exec, execLdVxK, h]

theorem exec_ldVxK_of_none {s : State} (x : RegIdx) (h : s.lowestPressed = none) :
    exec (.ldVxK x) s = .next s.rewind := by
  rw [exec, execLdVxK, h]

theorem exec_addIVx (x : RegIdx) (s : State) : exec (.addIVx x) s =
    if s.I.toNat + (s.reg x).toNat > 0xFFF then s.fail .indexOverflow
    else .next (s.setI (s.I + byteWord (s.reg x))) := rfl

theorem exec_ldFVx (x : RegIdx) (s : State) : exec (.ldFVx x) s = .next (s.setI (smallGlyph (s.reg x))) := rfl

theorem exec_ldHfVx (x : RegIdx) (s : State) : exec (.ldHfVx x) s = .next (s.setI (largeGlyph (s.reg x))) := rfl

theorem exec_ldBVx (x : RegIdx) (s : State) : exec (.ldBVx x) s =
    s.accessIndexed 3 fun t => .next (t.writeBytes t.I.toNat (decimalDigits (t.reg x))) := rfl

theorem exec_ldMemVx (x : RegIdx) (s : State) : exec (.ldMemVx x) s =
    s.accessIndexed (blockLen x) fun t =>
      .next ((t.writeBytes t.I.toNat (t.regBlock x)).postIncrement (blockLen x)) := rfl

theorem exec_ldVxMem (x : RegIdx) (s : State) : exec (.ldVxMem x) s =
    s.accessIndexed (blockLen x) fun t =>
      .next ((t.setV (loadRegs t.V 0 (t.readBytes t.I.toNat (blockLen x)))).postIncrement (blockLen x)) := rfl

/-! ## Addresses -/

/-- A sum in memory's range does not wrap (R171). -/
theorem toNat_add_byteWord {w : Word} {b : Byte} (h : w.toNat + b.toNat ≤ 0xFFF) :
    (w + byteWord b).toNat = w.toNat + b.toNat := by
  have hbyte : (byteWord b).toNat = b.toNat := BitVec.toNat_setWidth_of_le (by decide)
  rw [BitVec.toNat_add_of_lt (by omega), hbyte]

theorem toNat_smallGlyph (b : Byte) : (smallGlyph b).toNat = b.toNat * 5 := by
  have := b.isLt
  rw [smallGlyph, BitVec.toNat_ofNat, Config.fontSmallBase]
  omega

theorem toNat_largeGlyph (b : Byte) : (largeGlyph b).toNat = 0x50 + b.toNat * 10 := by
  have := b.isLt
  rw [largeGlyph, BitVec.toNat_ofNat, Config.fontLargeBase]
  omega

theorem toNat_addrWord_lt (nnn : Addr12) : (addrWord nnn).toNat < 0x1000 := by
  have hnnn := nnn.isLt
  have haddr : (addrWord nnn).toNat = nnn.toNat := BitVec.toNat_setWidth_of_le (by decide)
  omega

/-! ## The post-increment -/

/-- The index after a block transfer of `len` bytes: `I` is moved past the block under `jumping_quirk` (R177). -/
def State.indexAfter (s : State) (len : Nat) : Word :=
  if s.params.jumpingQuirk then s.I + BitVec.ofNat 16 len else s.I

theorem State.postIncrement_eq (s : State) (len : Nat) : s.postIncrement len = { s with I := s.indexAfter len } := by
  unfold State.postIncrement State.indexAfter
  split <;> rfl

/-- A block in memory ends at `0x1000` at most, so the 16-bit sum does not wrap (R32). -/
theorem State.toNat_indexAfter (s : State) {len : Nat} (h : s.I.toNat + len ≤ 4096) :
    (s.indexAfter len).toNat = s.I.toNat + if s.params.jumpingQuirk then len else 0 := by
  unfold State.indexAfter
  split
  · rw [BitVec.toNat_add, BitVec.toNat_ofNat]
    omega
  · rfl

/-! ## The key tests -/

/-- A key test skips or not, or is refused (R230 to R232). -/
theorem State.keyTest_cases (s : State) (x : RegIdx) (level : Bool) :
    ((s.reg x).toNat < 16 ∧ s.keyTest x level = .next (s.skipIf (s.pressed (s.reg x).toNat == level))) ∨
      (15 < (s.reg x).toNat ∧ s.keyTest x level = .refused .keyIndexOutOfRange) := by
  unfold State.keyTest keyNumber
  by_cases h : (s.reg x).toNat ≤ 15
  · exact .inl ⟨by omega, by rw [if_pos h]⟩
  · exact .inr ⟨by omega, by rw [if_neg h]⟩

end Sys2Proof.Machine
end

section
/-! PROOFS. What one instruction can do to the state, said once for all instructions (R92): every statement about all
instructions or all steps is derived from `exec_effect`. -/

namespace Sys2Proof.Machine

/-! ## The effects of an instruction -/

/-- `i.MayWriteIndex q`: the instructions that the spec lets write `I` (R31), given `jumping_quirk`. -/
def Instr.MayWriteIndex (i : Instr) (jumping : Bool) : Prop :=
  (∃ nnn, i = .ldI nnn) ∨
    ∃ x, i = .addIVx x ∨ i = .ldFVx x ∨ i = .ldHfVx x ∨ (jumping = true ∧ (i = .ldMemVx x ∨ i = .ldVxMem x))

/-- The register file `V` differs from that of `s` only where the table of R22 lets `i` write. -/
def RegsFollowTable (s : State) (i : Instr) (V : Vector Byte 16) : Prop :=
  ∀ r : RegIdx, V[r.toNat]'r.isLt ≠ s.reg r → Instr.mayWriteReg i s.params.vfResetQuirk r

/-- The index `w` is that of `s`, or is written by an instruction that may, and stays in `I`'s range (R32). -/
def IndexFollowsTable (s : State) (i : Instr) (w : Word) : Prop :=
  (w ≠ s.I → Instr.MayWriteIndex i s.params.jumpingQuirk) ∧ (s.I.toNat ≤ 0x1000 → w.toNat ≤ 0x1000)

/-- What the execution of `i` on `s` can answer, one constructor for each set of fields that is written together. -/
inductive Effect (s : State) (i : Instr) : Result → Prop
  | fails (f : Failure) (hf : ∀ a, f ≠ .badProgramCounter a) : Effect s i (.next { s with report := some f })
  | refuses (x : RegIdx) (hi : i = .skp x ∨ i = .sknp x) (hx : 15 < (s.reg x).toNat) :
      Effect s i (.refused .keyIndexOutOfRange)
  | regs (V : Vector Byte 16) (hV : RegsFollowTable s i V) : Effect s i (.next { s with V := V })
  | random (hi : ∃ x kk, i = .rnd x kk) (V : Vector Byte 16) (hV : RegsFollowTable s i V) :
      Effect s i (.next { s with V := V, draws := s.draws + 1 })
  | moves (w : Word) (hw : w.toNat ≤ 0x10FE ∨ w = s.pc ∨ w = s.pc + 2 ∨ w = s.pc - 2) :
      Effect s i (.next { s with pc := w })
  | calls (nnn : Addr12) (hi : i = .call nnn) (hlen : s.stack.length < 16) :
      Effect s i (.next { s with stack := s.pc :: s.stack, pc := addrWord nnn })
  | returns (hi : i = .ret) (v : Word) (rest : List Word) (hs : s.stack = v :: rest) :
      Effect s i (.next { s with stack := rest, pc := v })
  | mode (hi : i = .low ∨ i = .high) (b : Bool) : Effect s i (.next { s with hires := b })
  | screen (hi : i = .cls ∨ ∃ x y n, i = .drw x y n) (fb : Framebuffer) (V : Vector Byte 16)
      (hV : RegsFollowTable s i V) : Effect s i (.next { s with FB := fb, V := V })
  | delay (x : RegIdx) (hi : i = .ldDtVx x) : Effect s i (.next { s with DT := s.reg x })
  | sound (x : RegIdx) (hi : i = .ldStVx x) : Effect s i (.next { s with ST := s.reg x })
  | index (w : Word) (hw : IndexFollowsTable s i w) (V : Vector Byte 16) (hV : RegsFollowTable s i V) :
      Effect s i (.next { s with I := w, V := V })
  | memory (x : RegIdx) (hi : i = .ldBVx x ∨ i = .ldMemVx x) (m : List Host.Cell)
      (hm : Memory.wf s.params s.mem → Memory.wf s.params m) (w : Word) (hw : IndexFollowsTable s i w) :
      Effect s i (.next { s with mem := m, I := w })

/-! ## The effect of each shared operation -/

section
variable {s : State} {i : Instr}

theorem regsFollowTable_self : RegsFollowTable s i s.V := fun _ h => absurd rfl h

/-- A write to a register that the table lists. -/
theorem RegsFollowTable.set {V : Vector Byte 16} (hV : RegsFollowTable s i V) {x : RegIdx}
    (hx : Instr.mayWriteReg i s.params.vfResetQuirk x) (b : Byte) : RegsFollowTable s i (V.set x.toNat b x.isLt) := by
  intro r hr
  by_cases h : r = x
  · exact h ▸ hx
  · have hne : x.toNat ≠ r.toNat := fun hn => h (BitVec.eq_of_toNat_eq hn.symm)
    rw [Vector.getElem_set_ne _ _ hne] at hr
    exact hV r hr

theorem indexFollowsTable_self : IndexFollowsTable s i s.I := ⟨fun h => absurd rfl h, id⟩

/-- A write to `I` whose value does not depend on `I`. -/
theorem indexFollowsTable_of_le {w : Word} (hi : Instr.MayWriteIndex i s.params.jumpingQuirk) (hw : w.toNat ≤ 0x1000) :
    IndexFollowsTable s i w := ⟨fun _ => hi, fun _ => hw⟩

/-- The post-increment stays in range, as the access it follows did (R32). -/
theorem indexFollowsTable_indexAfter {x : RegIdx} (hi : i = .ldMemVx x ∨ i = .ldVxMem x) {len : Nat}
    (h : s.I.toNat + len ≤ 4096) : IndexFollowsTable s i (s.indexAfter len) := by
  refine ⟨fun hne => .inr ⟨x, .inr (.inr (.inr ⟨?quirk, hi⟩))⟩, fun _ => ?range⟩
  case quirk =>
    by_contra hq
    exact hne (if_neg hq)
  case range =>
    rw [s.toNat_indexAfter h]
    split <;> omega

/-! A register write takes the row that the register table (R22) has for the instruction. -/

theorem effect_setReg {x : RegIdx} (hi : ∀ q r, Instr.mayWriteReg i q r = (r = x)) (b : Byte) :
    Effect s i (.next (s.setReg x b)) := .regs _ (regsFollowTable_self.set (hi _ _ ▸ rfl) b)

theorem effect_setRegFlag {x : RegIdx} (hi : ∀ q r, Instr.mayWriteReg i q r = (r = x ∨ r = VF)) (b flag : Byte) :
    Effect s i (.next (s.setRegFlag x b flag)) :=
  .regs _ ((regsFollowTable_self.set (hi _ _ ▸ .inl rfl) b).set (hi _ VF ▸ .inr rfl) flag)

/-- The bitwise operations clear `VF` only under the quirk (R136 to R138). -/
theorem effect_setRegLogic {x : RegIdx} (hi : ∀ q r, Instr.mayWriteReg i q r = (r = x ∨ (q = true ∧ r = VF)))
    (b : Byte) : Effect s i (.next (s.setRegLogic x b)) := by
  have hx : RegsFollowTable s i (s.V.set x.toNat b x.isLt) := regsFollowTable_self.set (hi _ _ ▸ .inl rfl) b
  rcases s.setRegLogic_cases x b with ⟨hq, heq⟩ | ⟨-, heq⟩
  · rw [heq]
    exact .regs _ (hx.set (hi _ VF ▸ .inr ⟨hq, rfl⟩) 0)
  · rw [heq]
    exact .regs _ hx

/-- A block load writes no register above `x` (R176). -/
theorem regsFollowTable_loadRegs {x : RegIdx} (hi : ∀ q r, Instr.mayWriteReg i q r = (r.toNat ≤ x.toNat))
    {bytes : List Byte} (hlen : bytes.length = x.toNat + 1) : RegsFollowTable s i (loadRegs s.V 0 bytes) := by
  intro r hr
  rw [hi]
  by_contra hlt
  rw [getElem_loadRegs, dif_neg (by omega)] at hr
  exact hr rfl

theorem effect_skipIf (cond : Bool) : Effect s i (.next (s.skipIf cond)) := by
  rw [State.skipIf_eq]
  refine .moves _ ?_
  cases cond
  · exact .inr (.inl rfl)
  · exact .inr (.inr (.inl rfl))

theorem effect_keyTest {x : RegIdx} (hi : i = .skp x ∨ i = .sknp x) (level : Bool) :
    Effect s i (s.keyTest x level) := by
  rcases s.keyTest_cases x level with ⟨-, heq⟩ | ⟨hx, heq⟩
  · rw [heq]
    exact effect_skipIf _
  · rw [heq]
    exact .refuses x hi hx

/-- An indexed access has the effect it has when its range lies in memory, or fails. -/
theorem effect_accessIndexed {len : Nat} {access : State → Result}
    (h : s.I.toNat + len ≤ 4096 → Effect s i (access s)) : Effect s i (s.accessIndexed len access) := by
  rcases s.accessIndexed_cases len access with ⟨hin, heq⟩ | ⟨-, heq⟩
  · exact heq ▸ h hin
  · rw [heq]
    exact .fails _ (by simp)

end

/-! ## The effect of each instruction -/

theorem effect_ret (s : State) : Effect s .ret (exec .ret s) := by
  rw [exec_ret]
  rcases s.pop_cases fun v t => .next (t.setPc v) with ⟨v, rest, hs, heq⟩ | ⟨-, heq⟩
  · rw [heq]
    exact .returns rfl v rest hs
  · rw [heq]
    exact .fails _ (by simp)

theorem effect_call (nnn : Addr12) (s : State) : Effect s (.call nnn) (exec (.call nnn) s) := by
  rw [exec_call]
  rcases s.push_cases s.pc fun t => .next (t.setPc (addrWord nnn)) with ⟨hlen, heq⟩ | ⟨-, heq⟩
  · rw [heq]
    exact .calls nnn rfl hlen
  · rw [heq]
    exact .fails _ (by simp)

theorem effect_addIVx (x : RegIdx) (s : State) : Effect s (.addIVx x) (exec (.addIVx x) s) := by
  rw [exec_addIVx]
  split
  next => exact .fails _ (by simp)
  next hle =>
    have hsum : (s.I + byteWord (s.reg x)).toNat = s.I.toNat + (s.reg x).toNat := toNat_add_byteWord (by omega)
    exact .index _ (indexFollowsTable_of_le (.inr ⟨x, .inl rfl⟩) (by omega)) _ regsFollowTable_self

theorem effect_ldVxK (x : RegIdx) (s : State) : Effect s (.ldVxK x) (exec (.ldVxK x) s) := by
  cases h : s.lowestPressed with
  | some k =>
    rw [exec_ldVxK_of_some x h]
    exact effect_setReg (fun _ _ => rfl) _
  | none =>
    rw [exec_ldVxK_of_none x h]
    exact .moves _ (.inr (.inr (.inr rfl)))

/-- What the execution of any instruction on any state can answer. -/
theorem exec_effect (i : Instr) (s : State) : Effect s i (exec i s) := by
  cases i with
  | cls => exact .screen (.inl rfl) _ _ regsFollowTable_self
  | ret => exact effect_ret s
  | low => exact .mode (.inl rfl) _
  | high => exact .mode (.inr rfl) _
  | jp nnn => exact .moves _ (.inl (by have := toNat_addrWord_lt nnn; omega))
  | call nnn => exact effect_call nnn s
  | seImm x kk | sneImm x kk => exact effect_skipIf _
  | seReg x y | sneReg x y => exact effect_skipIf _
  | ldImm x kk | addImm x kk => exact effect_setReg (fun _ _ => rfl) _
  | ldReg x y => exact effect_setReg (fun _ _ => rfl) _
  | orReg x y | andReg x y | xorReg x y => exact effect_setRegLogic (fun _ _ => rfl) _
  | addReg x y | subReg x y | shrReg x y | subnReg x y | shlReg x y =>
    exact effect_setRegFlag (fun _ _ => rfl) _ _
  | ldI nnn =>
    have hle : (addrWord nnn).toNat ≤ 0x1000 := (toNat_addrWord_lt nnn).le
    exact .index _ (indexFollowsTable_of_le (.inl ⟨nnn, rfl⟩) hle) _ regsFollowTable_self
  | jpOff x nnn =>
    refine .moves _ (.inl ?_)
    have := (s.reg x).isLt
    have := nnn.isLt
    rw [toNat_offsetTarget]
    omega
  | rnd x kk => exact .random ⟨x, kk, rfl⟩ _ (regsFollowTable_self.set (by rfl) _)
  | drw x y n =>
    rw [exec_drw]
    exact effect_accessIndexed fun _ =>
      .screen (.inr ⟨x, y, n, rfl⟩) _ _ (regsFollowTable_self.set (x := VF) (by rfl) _)
  | skp x => exact effect_keyTest (.inl rfl) true
  | sknp x => exact effect_keyTest (.inr rfl) false
  | ldVxDt x => exact effect_setReg (fun _ _ => rfl) _
  | ldVxK x => exact effect_ldVxK x s
  | ldDtVx x => exact .delay x rfl
  | ldStVx x => exact .sound x rfl
  | addIVx x => exact effect_addIVx x s
  | ldFVx x =>
    have hle : (smallGlyph (s.reg x)).toNat ≤ 0x1000 := by
      have := (s.reg x).isLt
      rw [toNat_smallGlyph]
      omega
    exact .index _ (indexFollowsTable_of_le (.inr ⟨x, .inr (.inl rfl)⟩) hle) _ regsFollowTable_self
  | ldHfVx x =>
    have hle : (largeGlyph (s.reg x)).toNat ≤ 0x1000 := by
      have := (s.reg x).isLt
      rw [toNat_largeGlyph]
      omega
    exact .index _ (indexFollowsTable_of_le (.inr ⟨x, .inr (.inr (.inl rfl))⟩) hle) _ regsFollowTable_self
  | ldBVx x =>
    rw [exec_ldBVx]
    exact effect_accessIndexed fun hin =>
      .memory x (.inl rfl) _ (fun hwf => Memory.wf_writeAll hwf _ hin) _ indexFollowsTable_self
  | ldMemVx x =>
    rw [exec_ldMemVx]
    refine effect_accessIndexed fun hin => ?_
    have hlen : s.I.toNat + (s.regBlock x).length ≤ 4096 := by rwa [State.length_regBlock]
    rw [State.postIncrement_eq]
    exact .memory x (.inr rfl) _ (fun hwf => Memory.wf_writeAll hwf _ hlen) _
      (indexFollowsTable_indexAfter (.inl rfl) hin)
  | ldVxMem x =>
    rw [exec_ldVxMem]
    refine effect_accessIndexed fun hin => ?_
    rw [State.postIncrement_eq]
    exact .index _ (indexFollowsTable_indexAfter (.inr rfl) hin) _
      (regsFollowTable_loadRegs (fun _ _ => rfl) (s.length_readBytes _ _))

end Sys2Proof.Machine
end

section
/-! PROOFS. The step transaction (R90, R91): what a step does to `pc` before and during dispatch, and how it fails (R250
to R253, R259). -/

namespace Sys2Proof.Machine

/-! ## The three ways of a step -/

theorem step_of_fetch_none {s : State} (h : s.fetch = none) :
    step s = .next { s with report := some (.badProgramCounter s.pc) } := by
  rw [step, h, State.fail_eq]

theorem step_of_bad_word {s : State} {w : Word} (h : s.fetch = some w) (hw : decodeWord w = none) :
    step s = .next { s with pc := s.pc + 2, report := some (.badInstruction w (s.pc + 2)) } := by
  simp only [step, h, hw]
  rfl

theorem step_of_decoded {s : State} {i : Instr} (h : s.fetch.bind decodeWord = some i) : step s = exec i s.advance := by
  obtain ⟨w, hw, hi⟩ := Option.bind_eq_some_iff.mp h
  simp only [step, hw, hi]

/-- A step fails at the fetch, fails at a `BAD` word, or runs the instruction on the advanced state. -/
theorem step_cases (s : State) :
    (0xFFE < s.pc.toNat ∧ step s = .next { s with report := some (.badProgramCounter s.pc) }) ∨
      (s.pc.toNat ≤ 0xFFE ∧ ∃ w,
        step s = .next { s with pc := s.pc + 2, report := some (.badInstruction w (s.pc + 2)) }) ∨
      (s.pc.toNat ≤ 0xFFE ∧ ∃ i, s.fetch.bind decodeWord = some i ∧ step s = exec i s.advance) := by
  obtain ⟨hpc, hfetch⟩ | ⟨hpc, hfetch⟩ := s.fetch_cases
  · cases hword : decodeWord (s.readByte s.pc.toNat ++ s.readByte (s.pc.toNat + 1)) with
    | none => exact .inr (.inl ⟨hpc, _, step_of_bad_word hfetch hword⟩)
    | some i =>
      have hbind : s.fetch.bind decodeWord = some i := Option.bind_eq_some_iff.mpr ⟨_, hfetch, hword⟩
      exact .inr (.inr ⟨hpc, i, hbind, step_of_decoded hbind⟩)
  · exact .inl ⟨hpc, step_of_fetch_none hfetch⟩

theorem State.fetch_of_le {s : State} (h : s.pc.toNat ≤ 0xFFE) :
    s.fetch = some (s.readByte s.pc.toNat ++ s.readByte (s.pc.toNat + 1)) := by
  obtain ⟨-, hfetch⟩ | ⟨hlt, -⟩ := s.fetch_cases
  · exact hfetch
  · omega

theorem State.fetch_of_gt {s : State} (h : 0xFFE < s.pc.toNat) : s.fetch = none := by
  obtain ⟨hle, -⟩ | ⟨-, hfetch⟩ := s.fetch_cases
  · omega
  · exact hfetch

/-- Settles O7: the fetched word decodes, so the step is the dispatch on the advanced state. -/
theorem stepRunsDecodedInstruction : Obligations.StepRunsDecodedInstruction := by
  intro s i hpc hword
  exact step_of_decoded (Option.bind_eq_some_iff.mpr ⟨_, State.fetch_of_le hpc, hword⟩)

/-- Settles O8: the failure of a `BAD` word comes after the advance. -/
theorem stepFailsOnBadWord : Obligations.StepFailsOnBadWord := fun _ hpc hword =>
  step_of_bad_word (State.fetch_of_le hpc) hword

/-- Settles O9: the failed fetch leaves `pc`, so it fails again. -/
theorem stepFailsPastMemory : Obligations.StepFailsPastMemory := fun _ hpc =>
  ⟨step_of_fetch_none (State.fetch_of_gt hpc), step_of_fetch_none (State.fetch_of_gt hpc)⟩

/-- Settles O13: the fetch does not read the report, and every way of a step from there on overwrites it. -/
theorem reportIsNeverRead : Obligations.ReportIsNeverRead := by
  intro s r
  cases hfetch : s.fetch with
  | none => exact (step_of_fetch_none hfetch).trans (step_of_fetch_none hfetch).symm
  | some w =>
    cases hword : decodeWord w with
    | none => exact (step_of_bad_word hfetch hword).trans (step_of_bad_word hfetch hword).symm
    | some i =>
      have hbind : s.fetch.bind decodeWord = some i := Option.bind_eq_some_iff.mpr ⟨w, hfetch, hword⟩
      exact (step_of_decoded hbind).trans (step_of_decoded hbind).symm

/-! ## Every step answers, and a failure is precise -/

/-- Settles O12: no effect of an instruction is a fault, and the one refusal is that of the key tests. -/
theorem engineSurvivesEveryStep : Obligations.EngineSurvivesEveryStep := by
  intro s
  obtain ⟨-, hstep⟩ | ⟨-, w, hstep⟩ | ⟨-, i, hi, hstep⟩ := step_cases s
  · exact .inl ⟨_, hstep⟩
  · exact .inl ⟨_, hstep⟩
  · have heffect := exec_effect i s.advance
    rw [← hstep] at heffect
    generalize hresult : step s = result at heffect
    cases heffect with
    | refuses x hkey hx => exact .inr ⟨rfl, x, hx, by simpa [hi] using hkey⟩
    | _ => exact .inl ⟨_, rfl⟩

/-- An instruction that began with no report and ended with one did nothing else. -/
theorem Effect.report {s t : State} {i : Instr} {f : Failure} (h : Effect s i (.next t)) (hs : s.report = none)
    (ht : t.report = some f) : (∀ a, f ≠ .badProgramCounter a) ∧ t = { s with report := some f } := by
  cases h with
  | fails g hg =>
    obtain rfl : g = f := Option.some.inj ht
    exact ⟨hg, rfl⟩
  | _ => exact absurd (hs.symm.trans ht) nofun

/-- Settles O10: at the fetch, at a `BAD` word and in an instruction, a failure writes the report alone. -/
theorem failuresArePrecise : Obligations.FailuresArePrecise := by
  intro s t f ht hf
  obtain ⟨hpc, hstep⟩ | ⟨hpc, w, hstep⟩ | ⟨hpc, i, -, hstep⟩ := step_cases s
  · obtain rfl := Host.Outcome.next.inj (hstep.symm.trans ht)
    obtain rfl := Option.some.inj hf
    exact .inl ⟨hpc, rfl, rfl⟩
  · obtain rfl := Host.Outcome.next.inj (hstep.symm.trans ht)
    obtain rfl := Option.some.inj hf
    exact .inr ⟨hpc, nofun, rfl⟩
  · have heffect : Effect s.advance i (.next t) := ht ▸ hstep ▸ exec_effect i s.advance
    exact .inr ⟨hpc, heffect.report rfl hf⟩

end Sys2Proof.Machine
end

section
/-! PROOFS. What every instruction and every step leaves unchanged (R22, R31 to R41, R51). -/

namespace Sys2Proof.Machine

/-- Settles O20: the effects that write registers follow the table, and the others leave the register file. -/
theorem registerWritesFollowTheTable : Obligations.RegisterWritesFollowTheTable := by
  intro i s t r ht hr
  have heffect : Effect s i (.next t) := ht ▸ exec_effect i s
  cases heffect with
  | regs V hV | random hi V hV | screen hi fb V hV | index w hw V hV => exact hV r hr
  | _ => exact absurd rfl hr

/-- Settles O19: each effect names the instructions that have it, and writes its own fields alone. -/
theorem onlyNamedInstructionsWriteState : Obligations.OnlyNamedInstructionsWriteState := by
  intro i s t ht
  have heffect : Effect s i (.next t) := ht ▸ exec_effect i s
  cases heffect with
  | random hi V hV => simp [hi]
  | calls nnn hi hlen => simp [hi]
  | returns hi v rest hs => simp [hi]
  | mode hi b => simp [hi]
  | screen hi fb V hV => simp [hi]
  | delay x hi => simp [hi]
  | sound x hi => simp [hi]
  | index w hw V hV => simpa [Instr.MayWriteIndex] using hw.1
  | memory x hi m hm w hw => simpa [Instr.MayWriteIndex] using And.intro (fun _ => ⟨x, hi⟩) hw.1
  | _ => simp

end Sys2Proof.Machine
end

section
/-! PROOFS. The configuration and the invariant under every step and every schedule of the host (R28, R32, R33, R36,
R41, R264, R289). -/

namespace Sys2Proof.Machine

/-! ## A host's schedule -/

/-- A call of the host either steps, or writes the timers and the key latch at most (R265 to R268). -/
theorem State.perform_cases {s t : State} {call : HostCall} (h : s.perform call = .next t) :
    step s = .next t ∨ ∃ dt st key, t = { s with DT := dt, ST := st, key := key } := by
  have hkey (k : Nat) (level : Bool) (hk : s.writeKey k level = .next t) : ∃ key, t = { s with key := key } := by
    unfold State.writeKey at hk
    split at hk
    · exact ⟨_, (Host.Outcome.next.inj hk).symm⟩
    · cases hk
  cases call with
  | step => exact .inl h
  | decrementTimer => exact .inr ⟨_, _, s.key, (Host.Outcome.next.inj h).symm⟩
  | setKey k => exact .inr ⟨s.DT, s.ST, hkey k true h⟩
  | clearKey k => exact .inr ⟨s.DT, s.ST, hkey k false h⟩
  | readFramebuffer => exact .inr ⟨_, _, _, (Host.Outcome.next.inj h).symm⟩

/-- What every call of the host keeps, every schedule keeps. -/
theorem State.runSchedule_keeps {P : State → Prop}
    (hP : ∀ {s t : State} {call : HostCall}, P s → s.perform call = .next t → P t) {calls : List HostCall}
    {s t : State} (hs : P s) (h : s.runSchedule calls = .next t) : P t := by
  induction calls generalizing s with
  | nil => exact Host.Outcome.next.inj h ▸ hs
  | cons call rest ih =>
    rw [State.runSchedule] at h
    split at h
    next u hu => exact ih (hP hs hu) h
    all_goals cases h

/-! ## The configuration and the keys -/

theorem Effect.params_key {s t : State} {i : Instr} (h : Effect s i (.next t)) :
    t.params = s.params ∧ t.key = s.key := by
  cases h <;> exact ⟨rfl, rfl⟩

theorem step_params_key {s t : State} (h : step s = .next t) : t.params = s.params ∧ t.key = s.key := by
  obtain ⟨-, hstep⟩ | ⟨-, w, hstep⟩ | ⟨-, i, -, hstep⟩ := step_cases s
  · obtain rfl := Host.Outcome.next.inj (hstep.symm.trans h)
    exact ⟨rfl, rfl⟩
  · obtain rfl := Host.Outcome.next.inj (hstep.symm.trans h)
    exact ⟨rfl, rfl⟩
  · have heffect : Effect s.advance i (.next t) := h ▸ hstep ▸ exec_effect i s.advance
    exact heffect.params_key

/-- Settles O18: no effect of an instruction and no operation of the host writes the configuration. -/
theorem configurationNeverChanges : Obligations.ConfigurationNeverChanges := by
  refine ⟨fun calls s t h => ?schedule, fun s t h => step_params_key h⟩
  case schedule =>
    refine State.runSchedule_keeps (P := fun u => u.params = s.params) (fun {u v call} hu hv => ?_) rfl h
    obtain hstep | ⟨dt, st, key, rfl⟩ := State.perform_cases hv
    · exact (step_params_key hstep).1.trans hu
    · exact hu

/-! ## The invariant -/

/-- An instruction keeps the invariant from a `pc` that an advance leaves: at least 2, and at most `0x1000` (R28). -/
theorem Effect.keeps_inv {s t : State} {i : Instr} (h : Effect s i (.next t)) (hs : s.Inv) (hge : 2 ≤ s.pc.toNat)
    (hle : s.pc.toNat ≤ 0x1000) : t.Inv := by
  obtain ⟨hmem, hlen, hstack, hI, hpc⟩ := hs
  cases h with
  | moves w hw =>
    refine ⟨hmem, hlen, hstack, hI, ?_⟩
    obtain hw | rfl | rfl | rfl := hw
    · exact hw
    · exact hpc
    · show (s.pc + 2).toNat ≤ 0x10FE
      bv_omega
    · show (s.pc - 2).toNat ≤ 0x10FE
      bv_omega
  | calls nnn hi hlt =>
    have htarget : (addrWord nnn).toNat ≤ 0x10FE := by
      have := toNat_addrWord_lt nnn
      omega
    exact ⟨hmem, hlt, List.forall_mem_cons.mpr ⟨hle, hstack⟩, hI, htarget⟩
  | returns hi v rest hs =>
    rw [hs] at hlen hstack
    obtain ⟨hv, hrest⟩ := List.forall_mem_cons.mp hstack
    exact ⟨hmem, (Nat.le_succ _).trans hlen, hrest, hI, hv.trans (by decide)⟩
  | index w hw V hV => exact ⟨hmem, hlen, hstack, hw.2 hI, hpc⟩
  | memory x hi m hm w hw => exact ⟨hm hmem, hlen, hstack, hw.2 hI, hpc⟩
  | _ => exact ⟨hmem, hlen, hstack, hI, hpc⟩

/-- Settles O16: a fetch succeeds from `pc ≤ 0xFFE`, so dispatch begins with `pc` in `2..0x1000`. -/
theorem stepKeepsInvariant : Obligations.StepKeepsInvariant := by
  intro s t hs ht
  have hadvance (hpc : s.pc.toNat ≤ 0xFFE) : (s.pc + 2).toNat = s.pc.toNat + 2 :=
    BitVec.toNat_add_of_lt (by simp; omega)
  have hinv (hpc : s.pc.toNat ≤ 0xFFE) : s.advance.Inv := by
    obtain ⟨hmem, hlen, hstack, hI, -⟩ := hs
    have hle : s.advance.pc.toNat ≤ 0x10FE := by rw [State.advance_pc, hadvance hpc]; omega
    exact ⟨hmem, hlen, hstack, hI, hle⟩
  obtain ⟨-, hstep⟩ | ⟨hpc, w, hstep⟩ | ⟨hpc, i, -, hstep⟩ := step_cases s
  · obtain rfl := Host.Outcome.next.inj (hstep.symm.trans ht)
    exact hs
  · obtain rfl := Host.Outcome.next.inj (hstep.symm.trans ht)
    exact hinv hpc
  · have heffect : Effect s.advance i (.next t) := ht ▸ hstep ▸ exec_effect i s.advance
    have hpc' : s.advance.pc.toNat = s.pc.toNat + 2 := hadvance hpc
    exact heffect.keeps_inv (hinv hpc) (by omega) (by omega)

/-- Settles O17: an induction over the schedule; the host writes no field that the invariant speaks of. -/
theorem hostScheduleKeepsInvariant : Obligations.HostScheduleKeepsInvariant := by
  intro calls s t hs h
  refine State.runSchedule_keeps (fun {u v call} hu hv => ?_) hs h
  obtain hstep | ⟨dt, st, key, rfl⟩ := State.perform_cases hv
  · exact stepKeepsInvariant u v hu hstep
  · exact hu

end Sys2Proof.Machine
end

section
/-! PROOFS. Call and return (R102, R104), the key tests and the key wait (R230 to R234), and the advanced `pc` that a
step's dispatch observes (R91). -/

namespace Sys2Proof.Machine

/-! ## Call and return -/

/-- Settles O22: the two outcomes of the push. -/
theorem callPushesReturnAddress : Obligations.CallPushesReturnAddress := by
  intro s nnn
  rw [exec_call]
  obtain ⟨hlen, heq⟩ | ⟨hlen, heq⟩ := s.push_cases s.pc fun t => .next (t.setPc (addrWord nnn))
  · refine ⟨fun _ => ?_, fun hfull => by omega⟩
    rw [heq, addrWord_eq_ofNat]
    rfl
  · exact ⟨fun hroom => by omega, fun _ => heq⟩

/-- Settles O23: the two outcomes of the pop. -/
theorem returnPopsMostRecent : Obligations.ReturnPopsMostRecent := by
  intro s
  rw [exec_ret]
  obtain ⟨v, rest, hs, heq⟩ | ⟨hs, heq⟩ := s.pop_cases fun v t => .next (t.setPc v)
  · rw [hs]
    refine ⟨fun w rest' hw => ?_, nofun⟩
    obtain ⟨rfl, rfl⟩ := List.cons.inj hw
    exact heq
  · exact ⟨fun w rest' hw => absurd (hs.symm.trans hw) nofun, fun _ => heq⟩

/-! ## Keys -/

/-- A key test of a key number skips on the key's level. -/
theorem State.keyTest_of_lt {s : State} {x : RegIdx} (level : Bool) (h : (s.reg x).toNat < 16) :
    s.keyTest x level = .next (s.skipIf (s.key[(s.reg x).toNat] == level)) := by
  obtain ⟨-, heq⟩ | ⟨hgt, -⟩ := s.keyTest_cases x level
  · rw [heq, State.pressed_eq s _ h]
  · omega

/-- Settles O49: the two levels of the key test. -/
theorem keyTestsSkipOnLevel : Obligations.KeyTestsSkipOnLevel := by
  intro s x h
  rw [exec_skp, exec_sknp, State.keyTest_of_lt true h, State.keyTest_of_lt false h, State.skipIf_eq, State.skipIf_eq]
  cases s.key[(s.reg x).toNat] <;> exact ⟨rfl, rfl⟩

/-- Settles O50: the key test has no meaning above `0F`, at either level. -/
theorem keyTestsRefuseAboveFifteen : Obligations.KeyTestsRefuseAboveFifteen := by
  intro s x h
  have hrefused (level : Bool) : s.keyTest x level = .refused .keyIndexOutOfRange := by
    obtain ⟨hlt, -⟩ | ⟨-, heq⟩ := s.keyTest_cases x level
    · omega
    · exact heq
  exact ⟨hrefused true, hrefused false⟩

/-- Settles O51: the pressed key with none pressed below it is the lowest one. -/
theorem keyWaitTakesLowestKey : Obligations.KeyWaitTakesLowestKey := by
  intro s x k hk hpressed hbelow
  have hkey : s.pressed k = true := (s.pressed_eq k hk).trans hpressed
  have hfree (j : Nat) (hj : j < k) : s.pressed j = false := (s.pressed_eq j (by omega)).trans (hbelow j hj)
  obtain ⟨k', hlow, -, hkey', hfree'⟩ | ⟨-, hnone⟩ := s.lowestPressed_cases
  · have heq : k' = k := by
      obtain hlt | heq | hgt := Nat.lt_trichotomy k' k
      · exact absurd (hkey'.symm.trans (hfree k' hlt)) (by decide)
      · exact heq
      · exact absurd (hkey.symm.trans (hfree' k hgt)) (by decide)
    rw [exec_ldVxK_of_some x hlow, heq, State.setReg_eq]
  · exact absurd (hkey.symm.trans (hnone k hk)) (by decide)

/-- `Fx0A` with no key pressed moves `pc` back to its own address (R234). -/
theorem exec_ldVxK_of_no_key {s : State} (x : RegIdx) (h : ∀ k : Fin 16, s.key[k] = false) :
    exec (.ldVxK x) s = .next { s with pc := s.pc - 2 } := by
  obtain ⟨k, -, hlt, hkey, -⟩ | ⟨hnone, -⟩ := s.lowestPressed_cases
  · have hfree : s.pressed k = false := (s.pressed_eq k hlt).trans (h ⟨k, hlt⟩)
    exact absurd (hkey.symm.trans hfree) (by decide)
  · rw [exec_ldVxK_of_none x hnone, State.rewind]

/-- The step of `Fx0A` with no key: the move back undoes the advance. -/
theorem step_ldVxK_of_no_key {s : State} {x : RegIdx} (hi : s.fetch.bind decodeWord = some (.ldVxK x))
    (h : ∀ k : Fin 16, s.key[k] = false) : step s = .next { s with report := none } := by
  rw [step_of_decoded hi, exec_ldVxK_of_no_key (s := s.advance) x h, State.advance_pc, BitVec.add_sub_cancel]
  rfl

/-- Settles O52: the move back, for the instruction alone and after the advance. -/
theorem keyWaitSpinsWithoutKey : Obligations.KeyWaitSpinsWithoutKey := fun _ x h =>
  ⟨exec_ldVxK_of_no_key x h, fun hi => step_ldVxK_of_no_key hi h⟩

/-! ## The step as a whole -/

/-- A skip that is taken moves the advanced `pc` once more: the fetch address + 4 (R91, R101). -/
theorem step_of_skipIf {s : State} {i : Instr} {cond : Bool} (hi : s.fetch.bind decodeWord = some i)
    (hexec : exec i s.advance = .next (s.advance.skipIf cond)) (hcond : cond = true) :
    step s = .next { s with pc := s.pc + 4, report := none } := by
  have hsum : s.advance.pc + 2 = s.pc + 4 := by rw [State.advance_pc, BitVec.add_assoc]; rfl
  rw [step_of_decoded hi, hexec, State.skipIf_eq, if_pos hcond, hsum]
  rfl

/-- Settles O11: what each instruction does on the advanced state; a skip moves that state's `pc` once more. -/
theorem stepObservesAdvancedCounter : Obligations.StepObservesAdvancedCounter := by
  intro s x y kk nnn
  refine ⟨fun hi hlen => ?call, fun hi h => ?seImm, fun hi h => ?sneImm, fun hi h => ?seReg, fun hi h => ?sneReg,
    fun hlt => ⟨fun hi h => ?skp, fun hi h => ?sknp⟩, fun hi h => ?ldVxK, fun hi => ?jp⟩
  case call => exact (step_of_decoded hi).trans ((callPushesReturnAddress s.advance nnn).1 hlen)
  case seImm => exact step_of_skipIf hi (exec_seImm x kk _) (beq_iff_eq.mpr h)
  case sneImm => exact step_of_skipIf hi (exec_sneImm x kk _) (bne_iff_ne.mpr h)
  case seReg => exact step_of_skipIf hi (exec_seReg x y _) (beq_iff_eq.mpr h)
  case sneReg => exact step_of_skipIf hi (exec_sneReg x y _) (bne_iff_ne.mpr h)
  case skp => exact step_of_skipIf hi (State.keyTest_of_lt (s := s.advance) true hlt) (beq_iff_eq.mpr h)
  case sknp => exact step_of_skipIf hi (State.keyTest_of_lt (s := s.advance) false hlt) (beq_iff_eq.mpr h)
  case ldVxK => exact step_ldVxK_of_no_key hi h
  case jp => exact (step_of_decoded hi).trans (jumpSetsPc s.advance nnn)

end Sys2Proof.Machine
end

section
/-! PROOFS. The ALU operations with a flag (R136 to R143), the random byte (R150), and the index arithmetic (R171 to
R173). -/

namespace Sys2Proof.Machine

/-! ## The bitwise operations -/

/-- A bitwise result, and `VF` cleared last under the quirk. -/
theorem State.setRegLogic_eq (s : State) (x : RegIdx) (b : Byte) : s.setRegLogic x b =
    { s with
      V := if s.params.vfResetQuirk then (s.V.set x.toNat b x.isLt).set 15 0 else s.V.set x.toNat b x.isLt } := by
  rcases s.setRegLogic_cases x b with ⟨hq, heq⟩ | ⟨hq, heq⟩
  · rw [heq, hq, if_pos rfl, State.setRegFlag_eq]
  · rw [heq, hq, if_neg Bool.false_ne_true, State.setReg_eq]

/-- Settles O27: one bit lemma of `BitVec` each, and the shared write of a logic result. -/
theorem logicOperationsUnderQuirk : Obligations.LogicOperationsUnderQuirk := by
  intro s x y i op hmem
  simp only [List.mem_cons, Prod.mk.injEq, List.not_mem_nil, or_false] at hmem
  obtain ⟨rfl, rfl⟩ | ⟨rfl, rfl⟩ | ⟨rfl, rfl⟩ := hmem
  · exact ⟨s.reg x ||| s.reg y, fun k _ => BitVec.getLsbD_or, by rw [exec_orReg, State.setRegLogic_eq]⟩
  · exact ⟨s.reg x &&& s.reg y, fun k _ => BitVec.getLsbD_and, by rw [exec_andReg, State.setRegLogic_eq]⟩
  · exact ⟨s.reg x ^^^ s.reg y, fun k _ => BitVec.getLsbD_xor, by rw [exec_xorReg, State.setRegLogic_eq]⟩

/-! ## The flags as numbers -/

theorem carryFlag_eq (a b : Byte) : carryFlag a b = if a.toNat + b.toNat > 255 then 1 else 0 := by
  simp only [carryFlag, flagByte, decide_eq_true_eq]

theorem noBorrowFlag_eq (a b : Byte) : noBorrowFlag a b = if b.toNat ≤ a.toNat then 1 else 0 := by
  simp only [noBorrowFlag, flagByte, decide_eq_true_eq, ge_iff_le]

theorem byte_sub_eq_ofNat (a b : Byte) : a - b = BitVec.ofNat 8 ((256 + a.toNat - b.toNat) % 256) := by
  have := b.isLt
  apply BitVec.eq_of_toNat_eq
  rw [BitVec.toNat_sub, BitVec.toNat_ofNat, Nat.mod_mod]
  omega

/-- Settles O28. The adder's result and its carry. -/
theorem addSetsCarry : Obligations.AddSetsCarry := by
  intro s x y
  rw [exec_addReg, State.setRegFlag_eq, byte_add_eq_ofNat, carryFlag_eq]

/-- Settles O29. The subtractor's result and its no-borrow, with the operands in either order. -/
theorem subtractionsSetNoBorrow : Obligations.SubtractionsSetNoBorrow := by
  intro s x y
  rw [exec_subReg, exec_subnReg, State.setRegFlag_eq, State.setRegFlag_eq, byte_sub_eq_ofNat (s.reg x),
    byte_sub_eq_ofNat (s.reg y), noBorrowFlag_eq, noBorrowFlag_eq]
  exact ⟨rfl, rfl⟩

/-! ## The shifts -/

theorem byte_ushiftRight_one (a : Byte) : a >>> 1 = BitVec.ofNat 8 (a.toNat / 2) := by
  apply BitVec.eq_of_toNat_eq
  have := a.isLt
  rw [BitVec.toNat_ushiftRight, Nat.shiftRight_one, BitVec.toNat_ofNat]
  omega

theorem byte_shiftLeft_one (a : Byte) : a <<< 1 = BitVec.ofNat 8 (a.toNat * 2 % 256) := by
  apply BitVec.eq_of_toNat_eq
  rw [BitVec.toNat_shiftLeft, Nat.shiftLeft_eq, BitVec.toNat_ofNat, Nat.mod_mod]

/-- A bit of a byte as the digit of its number. -/
theorem getLsbD_eq_decide (b : Byte) (k : Nat) : b.getLsbD k = decide (b.toNat / 2 ^ k % 2 = 1) :=
  Nat.testBit_eq_decide_div_mod_eq

theorem flagByte_of_digit (d : Nat) : flagByte (decide (d % 2 = 1)) = BitVec.ofNat 8 (d % 2) := by
  obtain hd | hd := Nat.mod_two_eq_zero_or_one d
  · rw [hd]; rfl
  · rw [hd]; rfl

theorem shiftRightFlag_eq (a : Byte) : shiftRightFlag a = BitVec.ofNat 8 (a.toNat % 2) := by
  rw [shiftRightFlag, getLsbD_eq_decide, pow_zero, Nat.div_one, flagByte_of_digit]

/-- The top bit is the only digit from `2 ^ 7` on. -/
theorem shiftLeftFlag_eq (a : Byte) : shiftLeftFlag a = BitVec.ofNat 8 (a.toNat / 128) := by
  have hlt : a.toNat / 128 < 2 := by
    have := a.isLt
    omega
  rw [shiftLeftFlag, getLsbD_eq_decide, show 2 ^ 7 = 128 from rfl, flagByte_of_digit, Nat.mod_eq_of_lt hlt]

/-- Settles O30. Half and double of the number, and the bit at either end of it. -/
theorem shiftsMoveOneBit : Obligations.ShiftsMoveOneBit := by
  intro s x y
  rw [exec_shrReg, exec_shlReg, State.setRegFlag_eq, State.setRegFlag_eq, byte_ushiftRight_one, byte_shiftLeft_one,
    shiftRightFlag_eq, shiftLeftFlag_eq]
  exact ⟨rfl, rfl⟩

/-! ## The random byte -/

theorem toNat_limitDraw (r kk : Byte) : (limitDraw r kk).toNat = r.toNat % (kk.toNat + 1) := by
  have hr := r.isLt
  have hle := Nat.mod_le r.toNat (kk.toNat + 1)
  rw [limitDraw, BitVec.toNat_ofNat]
  omega

/-- Settles O31: a remainder modulo `kk + 1` fits a byte and is at most `kk`. -/
theorem randomIsLimitedByImmediate : Obligations.RandomIsLimitedByImmediate := by
  intro s x kk
  refine ⟨limitDraw s.draw kk, toNat_limitDraw _ _, ?_, exec_rnd x kk s⟩
  rw [toNat_limitDraw]
  exact Nat.lt_succ_iff.mp (Nat.mod_lt _ kk.toNat.succ_pos)

/-! ## The index register -/

/-- Settles O33: the comparison of the unwrapped sum decides, and below the threshold the sum does not wrap. -/
theorem indexAddFailsPastMemory : Obligations.IndexAddFailsPastMemory := by
  intro s x
  rw [exec_addIVx]
  refine ⟨fun hle => ?_, fun hgt => if_pos hgt⟩
  have hsum : s.I + byteWord (s.reg x) = BitVec.ofNat 16 (s.I.toNat + (s.reg x).toNat) := by
    rw [← toNat_add_byteWord hle, BitVec.ofNat_toNat, BitVec.setWidth_eq]
  rw [if_neg (by omega), hsum]
  rfl

/-- Settles O34: neither product overflows a word. -/
theorem glyphAddresses : Obligations.GlyphAddresses := fun s x =>
  ⟨_, _, exec_ldFVx x s, toNat_smallGlyph _, rfl, exec_ldHfVx x s, toNat_largeGlyph _, rfl⟩

end Sys2Proof.Machine
end

section
/-! PROOFS. The host's timer and key operations (R266, R267). -/

namespace Sys2Proof.Machine

theorem toNat_timerTick (t : Byte) : (timerTick t).toNat = t.toNat - 1 := by
  unfold timerTick
  split <;> bv_omega

/-- Settles O54: both timers tick, with the floor of 0 that natural subtraction has. -/
theorem timersDecrementWithFloor : Obligations.TimersDecrementWithFloor := fun s =>
  ⟨toNat_timerTick s.DT, toNat_timerTick s.ST, rfl⟩

theorem State.writeKey_of_lt (s : State) {k : Nat} (level : Bool) (h : k < 16) :
    s.writeKey k level = .next { s with key := s.key.set k level } := dif_pos h

theorem State.writeKey_of_gt (s : State) {k : Nat} (level : Bool) (h : 15 < k) :
    s.writeKey k level = .refused .hostKeyIndexOutOfRange := dif_neg (by omega)

/-- Settles O55: both calls are the one write of a key, at either level. -/
theorem hostKeysWriteTheLatch : Obligations.HostKeysWriteTheLatch := fun s _ =>
  ⟨fun h => ⟨s.writeKey_of_lt true h, s.writeKey_of_lt false h⟩,
    fun h => ⟨s.writeKey_of_gt true h, s.writeKey_of_gt false h⟩⟩

end Sys2Proof.Machine
end

section
/-! PROOFS. The memory transfers `Fx33`, `Fx55` and `Fx65` (R174 to R177), the round trip of the last two (E5), and the
fetch of stored bytes (R63). -/

namespace Sys2Proof.Machine

/-! ## Block writes -/

section
variable {s : State} (hs : Memory.wf s.params s.mem) {a : Nat} {bytes : List Byte}
include hs

/-- A written byte reads back. -/
theorem State.readByte_writeBytes_at {k : Nat} (hk : k < bytes.length) :
    (s.writeBytes a bytes).readByte (a + k) = bytes[k] := by
  rw [State.readByte_writeBytes s hs, dif_pos (by omega)]
  simp

/-- An address outside the written block reads as before. -/
theorem State.readByte_writeBytes_of_not_mem {b : Nat} (hb : b < a ∨ a + bytes.length ≤ b) :
    (s.writeBytes a bytes).readByte b = s.readByte b := by
  rw [State.readByte_writeBytes s hs, dif_neg (by omega)]

end

/-! ## Decimal digits -/

/-- The digits of a byte, hundreds first. -/
theorem toNat_decimalDigits (b : Byte) (k : Nat) (hk : k < (decimalDigits b).length) :
    (decimalDigits b)[k].toNat = [b.toNat / 100, b.toNat / 10 % 10, b.toNat % 10][k] := by
  have hb := b.isLt
  have hbyte {d : Nat} (hd : d < 256) : (BitVec.ofNat 8 d).toNat = d := Nat.mod_eq_of_lt hd
  match k, hk with
  | 0, _ => exact hbyte (by omega)
  | 1, _ => exact hbyte (by omega)
  | 2, _ => exact hbyte (by omega)

/-- Settles O35: the block write of the three digits, or the failed access. -/
theorem decimalDigitsAreStored : Obligations.DecimalDigitsAreStored := by
  intro s x hs
  rw [exec_ldBVx]
  refine ⟨fun hin => ⟨_, State.accessIndexed_in _ _ _ hin, ?_⟩, State.accessIndexed_out _ _ _⟩
  have hdigit (k : Nat) (hk : k < 3) :
      ((s.writeBytes s.I.toNat (decimalDigits (s.reg x))).readByte (s.I.toNat + k)).toNat =
        [(s.reg x).toNat / 100, (s.reg x).toNat / 10 % 10, (s.reg x).toNat % 10][k] := by
    have hlen : k < (decimalDigits (s.reg x)).length := hk
    exact (congrArg BitVec.toNat (State.readByte_writeBytes_at hs hlen)).trans (toNat_decimalDigits _ k hlen)
  exact ⟨hdigit 0 (by decide), hdigit 1 (by decide), hdigit 2 (by decide),
    fun a ha => State.readByte_writeBytes_of_not_mem hs ha, rfl⟩

/-! ## Register blocks -/

/-- `Fx55` of a block that lies in memory. -/
theorem exec_ldMemVx_in {s : State} {x : RegIdx} (h : s.I.toNat + x.toNat + 1 ≤ 4096) : exec (.ldMemVx x) s =
    .next { s with
      mem := (s.writeBytes s.I.toNat (s.regBlock x)).mem
      I := s.indexAfter (x.toNat + 1) } := by
  rw [exec_ldMemVx, State.accessIndexed_in _ _ _ h, State.postIncrement_eq]
  rfl

/-- `Fx65` of a block that lies in memory. -/
theorem exec_ldVxMem_in {s : State} {x : RegIdx} (h : s.I.toNat + x.toNat + 1 ≤ 4096) : exec (.ldVxMem x) s =
    .next { s with
      V := loadRegs s.V 0 (s.readBytes s.I.toNat (x.toNat + 1))
      I := s.indexAfter (x.toNat + 1) } := by
  rw [exec_ldVxMem, State.accessIndexed_in _ _ _ h, State.postIncrement_eq]
  rfl

/-- `Fx55` past the end of memory (R57). -/
theorem exec_ldMemVx_out {s : State} {x : RegIdx} (h : 4096 < s.I.toNat + x.toNat + 1) : exec (.ldMemVx x) s =
    .next { s with report := some (.outOfBounds s.I (x.toNat + 1)) } := by
  rw [exec_ldMemVx, State.accessIndexed_out _ _ _ h]
  rfl

/-- `Fx65` past the end of memory (R57). -/
theorem exec_ldVxMem_out {s : State} {x : RegIdx} (h : 4096 < s.I.toNat + x.toNat + 1) : exec (.ldVxMem x) s =
    .next { s with report := some (.outOfBounds s.I (x.toNat + 1)) } := by
  rw [exec_ldVxMem, State.accessIndexed_out _ _ _ h]
  rfl

/-- A stored register reads back from memory. -/
theorem State.readByte_regBlock {s : State} (hs : Memory.wf s.params s.mem) {x z : RegIdx} (hz : z.toNat ≤ x.toNat) :
    (s.writeBytes s.I.toNat (s.regBlock x)).readByte (s.I.toNat + z.toNat) = s.reg z := by
  have hlen : z.toNat < (s.regBlock x).length := by
    rw [State.length_regBlock]
    omega
  rw [State.readByte_writeBytes_at hs hlen, State.getElem_regBlock]
  rfl

/-- A loaded register holds the byte of memory. -/
theorem getElem_loadRegs_readBytes (s : State) {x z : RegIdx} (hz : z.toNat ≤ x.toNat) :
    (loadRegs s.V 0 (s.readBytes s.I.toNat (x.toNat + 1)))[z.toNat]'z.isLt = s.readByte (s.I.toNat + z.toNat) := by
  rw [getElem_loadRegs, dif_pos (by rw [State.length_readBytes]; omega), State.getElem_readBytes, Nat.sub_zero]

/-- Settles O36: the block write of the registers, or the failed access. -/
theorem registerBlockIsStored : Obligations.RegisterBlockIsStored := by
  intro s x hs
  refine ⟨fun hin => ⟨_, exec_ldMemVx_in hin, fun z hz => State.readByte_regBlock hs hz, fun a ha => ?other,
    s.toNat_indexAfter hin, rfl⟩, fun hout => ?out⟩
  case other => exact State.readByte_writeBytes_of_not_mem hs (by rwa [State.length_regBlock])
  case out => exact exec_ldMemVx_out hout

/-- Settles O37: the block load of the registers, or the failed access. -/
theorem registerBlockIsLoaded : Obligations.RegisterBlockIsLoaded := by
  intro s x
  refine ⟨fun hin => ⟨_, exec_ldVxMem_in hin, fun z hz => getElem_loadRegs_readBytes s hz, fun z hz => ?above,
    s.toNat_indexAfter hin, rfl⟩, fun hout => ?out⟩
  case above => exact (getElem_loadRegs _ _ _ _ z.isLt).trans (dif_neg (by rw [State.length_readBytes]; omega))
  case out => exact exec_ldVxMem_out hout

/-- Settles O38: the load reads the bytes that the store left, from the index put back. -/
theorem storeThenLoadRoundTrips : Obligations.StoreThenLoadRoundTrips := by
  intro s x V hs hin
  refine ⟨_, _, exec_ldMemVx_in hin, exec_ldVxMem_in hin, fun z hz => ?_⟩
  exact (getElem_loadRegs_readBytes _ hz).trans (State.readByte_regBlock hs hz)

/-- Settles O39: the two bytes at the index are the first two registers. -/
theorem fetchSeesEarlierStores : Obligations.FetchSeesEarlierStores := by
  intro s x hs hx hin
  refine ⟨_, exec_ldMemVx_in hin, (State.fetch_of_le (by show s.I.toNat ≤ 0xFFE; omega)).trans ?_⟩
  have h0 := State.readByte_regBlock hs (x := x) (z := 0) (Nat.zero_le _)
  have h1 := State.readByte_regBlock hs (x := x) (z := 1) hx
  exact congrArg some (congrArg₂ _ h0 h1)

end Sys2Proof.Machine
end

section
/-! PROOFS. The state after construction: the address map (R52, R282), the registers (R283) and the invariant. -/

namespace Sys2Proof.Machine

/-- What construction answers: the program fits, and is loaded into a fresh engine. -/
theorem construct_eq_next {program : List Byte} {params : Params} {s : State} (h : construct program params = .next s) :
    program.length ≤ 3584 ∧ s = (State.fresh params).writeBytes 0x200 program := by
  obtain hgt | hle := Nat.lt_or_ge 3584 program.length
  · cases h.symm.trans (construct_of_length_gt params hgt)
  · exact ⟨hle, Host.Outcome.next.inj (h.symm.trans (construct_of_length_le params hle))⟩

/-- The second range of the background is the large font, when it is included (R52). -/
theorem background_large (p : Params) (a : Nat) (h : a < 160) :
    background p (0x50 + a) = if p.largeFontIncluded then p.fontLarge[a] else 0 := by
  have hsub : 0x50 + a - 80 = a := by omega
  simp only [background, dif_neg (show ¬ 0x50 + a < 80 by omega), dif_pos (show 0x50 + a < 240 by omega), hsub]

/-- Settles O58: below the load address the background, from it on the program, and zeros above. -/
theorem constructLaysOutMemory : Obligations.ConstructLaysOutMemory := by
  intro program params s h
  obtain ⟨-, rfl⟩ := construct_eq_next h
  refine ⟨fun a ha => ?small, fun a ha => ?large, fun a hge hlt => ?zero,
    fun a ha => State.readByte_loaded_program params program a ha,
    fun a ha _ => State.readByte_loaded_above params program a ha⟩
  case small => rw [State.readByte_loaded_below _ _ _ (by omega), background_of_lt]
  case large => rw [State.readByte_loaded_below _ _ _ (by omega), background_large _ _ ha]
  case zero => rw [State.readByte_loaded_below _ _ _ hlt, background_of_le _ _ hge]

/-- Settles O59: loading writes memory alone, and a fresh engine has every register at its reset value. -/
theorem constructResetsEveryRegister : Obligations.ConstructResetsEveryRegister := by
  intro program params s h
  obtain ⟨-, rfl⟩ := construct_eq_next h
  have hreg (x : RegIdx) : ((State.fresh params).writeBytes 0x200 program).reg x = 0 := Vector.getElem_replicate x.isLt
  have hkey (k : Fin 16) : ((State.fresh params).writeBytes 0x200 program).key[k] = false :=
    Vector.getElem_replicate k.isLt
  exact ⟨rfl, hreg, rfl, rfl, rfl, rfl, Framebuffer.lit_cleared, rfl, hkey, rfl, rfl⟩

/-- A fresh engine meets every bound of the invariant, and lists no byte of memory. -/
theorem State.inv_fresh (params : Params) : (State.fresh params).Inv :=
  have hI : (0 : Word).toNat ≤ 0x1000 := by decide
  have hpc : (0x200 : Word).toNat ≤ 0x10FE := by decide
  ⟨State.wf_fresh params, Nat.zero_le _, nofun, hI, hpc⟩

/-- Settles O14: reset is a fresh engine. -/
theorem resetMeetsInvariant : Obligations.ResetMeetsInvariant := State.inv_fresh Config.defaultParams

/-- Settles O15: loading a program that fits keeps memory canonical, and writes nothing else. -/
theorem constructMeetsInvariant : Obligations.ConstructMeetsInvariant := by
  intro program params s h
  obtain ⟨hlen, rfl⟩ := construct_eq_next h
  obtain ⟨hwf, hrest⟩ := State.inv_fresh params
  exact ⟨State.wf_writeBytes _ hwf _ _ (show 0x200 + program.length ≤ 4096 by omega), hrest⟩

end Sys2Proof.Machine
end

section
/-! PROOFS. The display: the clear and the modes (R202 to R204), the sprite's shape and bits (R205 to R207), the draws
that write no pixel (R207, R212), and R213 on two draws and on the order of the bits. -/

namespace Sys2Proof.Machine

/-! ## Clear and modes -/

/-- Settles O40: the framebuffer is the cleared one, in which no cell is lit. -/
theorem clearBlanksEveryCell : Obligations.ClearBlanksEveryCell := fun s =>
  ⟨_, exec_cls s, Framebuffer.lit_cleared, rfl⟩

/-- Settles O41: each is the one write of the mode. -/
theorem modeOpcodesSetResolution : Obligations.ModeOpcodesSetResolution := fun s => ⟨exec_low s, exec_high s⟩

/-! ## The sprite -/

theorem spriteShape_small {hires : Bool} {n : BitVec 4} (h : ¬ (hires = true ∧ n = 0)) :
    spriteShape hires n = ⟨n.toNat, 8, n.toNat⟩ := if_neg h

theorem spriteShape_big {hires : Bool} {n : BitVec 4} (h : hires = true ∧ n = 0) :
    spriteShape hires n = ⟨16, 16, 32⟩ := if_pos h

theorem State.spriteBit_small (s : State) {n : BitVec 4} (h : ¬ (s.hires = true ∧ n = 0)) (row col : Nat) :
    s.spriteBit (spriteShape s.hires n) row col = (s.readByte (s.I.toNat + row)).getLsbD (7 - col) := by
  rw [spriteShape_small h, State.spriteBit, if_pos rfl]

/-- Columns 0 to 7 of a big sprite's row are the bits of its first byte. -/
theorem State.spriteBit_big_left (s : State) {n : BitVec 4} (h : s.hires = true ∧ n = 0) (row : Nat) {col : Nat}
    (hcol : col < 8) :
    s.spriteBit (spriteShape s.hires n) row col = (s.readByte (s.I.toNat + 2 * row)).getLsbD (7 - col) := by
  have hindex : 15 - col - 8 = 7 - col := by omega
  rw [spriteShape_big h, State.spriteBit, if_neg (by decide), wordOfBytes, BitVec.getLsbD_append,
    if_neg (by omega), hindex]

/-- Columns 8 to 15 of a big sprite's row are the bits of its second byte. -/
theorem State.spriteBit_big_right (s : State) {n : BitVec 4} (h : s.hires = true ∧ n = 0) (row : Nat) {col : Nat}
    (hcol : 8 ≤ col) :
    s.spriteBit (spriteShape s.hires n) row col = (s.readByte (s.I.toNat + 2 * row + 1)).getLsbD (15 - col) := by
  rw [spriteShape_big h, State.spriteBit, if_neg (by decide), wordOfBytes, BitVec.getLsbD_append, if_pos (by omega)]

/-- Settles O45: the shape is the model's own, and each bit is a digit of the byte that holds it. -/
theorem spriteShapeAndBits : Obligations.SpriteShapeAndBits := by
  refine ⟨fun hires n => rfl, fun s n row col => ⟨fun h _ => ?small, fun h hcol => ?left, fun h hcol _ => ?right⟩⟩
  case small => rw [s.spriteBit_small h, getLsbD_eq_decide, decide_eq_true_iff]
  case left => rw [s.spriteBit_big_left h row hcol, getLsbD_eq_decide, decide_eq_true_iff]
  case right => rw [s.spriteBit_big_right h row hcol, getLsbD_eq_decide, decide_eq_true_iff]

/-! ## Draws that write no pixel -/

/-- Settles O44: the failed access. -/
theorem drawFailsPastMemory : Obligations.DrawFailsPastMemory := by
  intro s x y n h
  rw [exec_drw, State.accessIndexed_out _ _ _ h]

/-- A draw of no cells. -/
theorem State.drawSprite_of_no_cells {s : State} {x y : RegIdx} {shape : SpriteShape}
    (h : s.spriteCells x y shape = []) : s.drawSprite x y shape = { s with V := s.V.set 15 0 } := by
  rw [State.drawSprite, h]
  rfl

/-- Settles O46: the empty sprite has no rows, so it has no cells and needs no byte of memory. -/
theorem lowResolutionEmptyDraw : Obligations.LowResolutionEmptyDraw := by
  intro s x y hlow hI
  have hshape : spriteShape s.hires 0 = ⟨0, 8, 0⟩ := spriteShape_small (by simp [hlow])
  have hcells : s.spriteCells x y (spriteShape s.hires 0) = [] := by rw [hshape]; rfl
  rw [exec_drw_in x y 0 s (by rw [hshape]; exact hI), State.drawSprite_of_no_cells hcells]

/-! ## The order of the bits, and two draws (R213) -/

/-- Distinct cells of the storage composite alike in any order. -/
theorem composite_perm (fb : Framebuffer) {cells cells' : List (Nat × Nat)} (h : cells.Perm cells') (hn : cells'.Nodup)
    (hb : ∀ p ∈ cells', p.1 < 128 ∧ p.2 < 64) : composite fb cells = composite fb cells' := by
  obtain ⟨hlit, hhit⟩ := composite_spec fb cells (h.nodup_iff.mpr hn) fun p hp => hb p (h.mem_iff.mp hp)
  obtain ⟨hlit', hhit'⟩ := composite_spec fb cells' hn hb
  refine Prod.ext (Framebuffer.ext_lit _ _ fun c r _ _ => ?cell) ?collision
  case cell => simp only [hlit, hlit', h.mem_iff]
  case collision => simp only [hhit, hhit', h.mem_iff]

/-- The cells of a sprite lie in the storage. -/
theorem State.spriteCells_in_storage {s : State} {x y : RegIdx} {n : BitVec 4} {p : Nat × Nat}
    (hp : p ∈ s.spriteCells x y (spriteShape s.hires n)) : p.1 < 128 ∧ p.2 < 64 := by
  obtain ⟨hc, hr⟩ := ((s.mem_spriteCells x y n p.1 p.2).mp hp).in_window
  exact ⟨hc.trans_le s.activeWidth_bounds.2, hr.trans_le s.activeHeight_bounds.2⟩

/-- Settles O48: the cells are distinct, so the compositor's result speaks of them as a set. -/
theorem drawOrderIsIrrelevant : Obligations.DrawOrderIsIrrelevant := fun s x y n _ =>
  ⟨s.nodup_spriteCells x y n, fun hperm =>
    composite_perm s.FB hperm (s.nodup_spriteCells x y n) fun _ hp => State.spriteCells_in_storage hp⟩

theorem flagByte_eq_one_iff (b : Bool) : flagByte b = 1 ↔ b = true := by
  cases b <;> decide

/-- The state between the two draws: the sprite drawn once, and the registers put back. -/
def State.drawnOnce (s : State) (x y : RegIdx) (n : BitVec 4) : State :=
  { s.drawSprite x y (spriteShape s.hires n) with V := s.V }

section
variable (s : State) (x y : RegIdx) (n : BitVec 4)

/-- Neither the sprite nor its origin has changed, so the second draw covers the same cells. -/
theorem State.drawnOnce_covers (c r : Nat) : (s.drawnOnce x y n).SpriteCovers x y n c r ↔ s.SpriteCovers x y n c r :=
  Iff.rfl

/-- The second draw finds a covered cell lit exactly when the first found it unlit. -/
theorem State.lit_drawnOnce {c r : Nat} (h : s.SpriteCovers x y n c r) :
    Framebuffer.lit (s.drawnOnce x y n).FB c r = !Framebuffer.lit s.FB c r := s.lit_drawSprite_of_covers x y n h

/-- Every cell is toggled twice or not at all. -/
theorem State.drawSprite_drawnOnce_FB : ((s.drawnOnce x y n).drawSprite x y (spriteShape s.hires n)).FB = s.FB := by
  refine Framebuffer.ext_lit _ _ fun c r _ _ => ?_
  by_cases h : s.SpriteCovers x y n c r
  · have hagain := (s.drawnOnce_covers x y n c r).mpr h
    exact ((s.drawnOnce x y n).lit_drawSprite_of_covers x y n hagain).trans
      (by rw [s.lit_drawnOnce x y n h, Bool.not_not])
  · have hagain := mt (s.drawnOnce_covers x y n c r).mp h
    exact ((s.drawnOnce x y n).lit_drawSprite_of_not_covers x y n hagain).trans
      (s.lit_drawSprite_of_not_covers x y n h)

/-- The second draw's flag: some covered cell was unlit before the first. -/
theorem State.drawSprite_drawnOnce_VF :
    ((s.drawnOnce x y n).drawSprite x y (spriteShape s.hires n)).reg VF = 1 ↔
      ∃ c r, s.SpriteCovers x y n c r ∧ Framebuffer.lit s.FB c r = false := by
  have hflag := (s.drawnOnce x y n).reg_VF_drawSprite x y n
  have hhit := (s.drawnOnce x y n).collision_spriteCells x y n
  simp only [s.drawnOnce_covers x y n] at hhit
  calc ((s.drawnOnce x y n).drawSprite x y (spriteShape s.hires n)).reg VF = 1
      ↔ ∃ c r, s.SpriteCovers x y n c r ∧ Framebuffer.lit (s.drawnOnce x y n).FB c r = true :=
        (Eq.congr_left hflag).trans ((flagByte_eq_one_iff _).trans hhit)
    _ ↔ ∃ c r, s.SpriteCovers x y n c r ∧ Framebuffer.lit s.FB c r = false :=
        exists₂_congr fun c r => and_congr_right fun h => by rw [s.lit_drawnOnce x y n h, Bool.not_eq_true']

/-- A sprite covers a cell exactly when it has a set bit. -/
theorem State.exists_spriteCovers_iff : (∃ c r, s.SpriteCovers x y n c r) ↔
    ∃ row col, row < (spriteShape s.hires n).rows ∧ col < (spriteShape s.hires n).width ∧
      s.spriteBit (spriteShape s.hires n) row col = true := by
  constructor
  · rintro ⟨c, r, row, col, hrow, hcol, hbit, -, -⟩
    exact ⟨row, col, hrow, hcol, hbit⟩
  · rintro ⟨row, col, hrow, hcol, hbit⟩
    exact ⟨_, _, row, col, hrow, hcol, hbit, rfl, rfl⟩

end

/-- Settles O47: the second draw covers the same cells, and toggles each of them back. -/
theorem drawTwiceRestores : Obligations.DrawTwiceRestores := by
  intro s x y n hin
  refine ⟨_, _, exec_drw_in x y n s hin, exec_drw_in x y n (s.drawnOnce x y n) hin, s.drawSprite_drawnOnce_FB x y n,
    s.drawSprite_drawnOnce_VF x y n, fun hdark => (s.drawSprite_drawnOnce_VF x y n).trans ?_⟩
  rw [← s.exists_spriteCovers_iff x y n]
  exact exists₂_congr fun c r => and_iff_left_of_imp (hdark c r)

end Sys2Proof.Machine
end
